-- ==== Sys2Proof/Word.lean ====
section
/-! DEFINITION. The word types of the block: bytes, 32-bit words, and the colour 4-tuple (spec/00_scope.md R7, R8). -/

namespace Sys2Proof

/-- `u8` of R7: one byte of IN or OUT, one colour channel, one 8-bit header register. -/
abbrev Byte := BitVec 8

/-- `u32` of R7: the host registers, the cursor and the pixel counter (ADDR_W = 32, R6). -/
abbrev Word := BitVec 32

/-- A colour `{r, g, b, a}` of four u8 channels (R8). Equality of colours is the exact comparison of all four channels (R146). -/
structure Color where
  r : Byte
  g : Byte
  b : Byte
  a : Byte
deriving DecidableEq, Repr, Inhabited

end Sys2Proof
end

