-- ==== Sys2Proof/Syntax.lean ====
section
/-! DEFINITION. The instruction set: the six QOI opcodes (spec/30_encoding.md R80 to R91), one constructor per row of
spec/opcode_table.json. Operands are the operand values of R90 and R91, not raw fields: deltas are integers. -/

namespace Sys2Proof

/-- The six opcodes with their operands as R91 writes them. -/
inductive Instr where
  /-- `RGB r, g, b` (R81, R155). -/
  | rgb (r g b : Byte)
  /-- `RGBA r, g, b, a` (R82, R156). -/
  | rgba (r g b a : Byte)
  /-- `INDEX i`, a cache slot number in 0..63 (R83, R157). -/
  | index (idx : Nat)
  /-- `DIFF dr, dg, db`, each in −2..1 (R84, R158). -/
  | diff (dr dg db : Int)
  /-- `LUMA dg, drg, dbg`: dg in −32..31, drg and dbg in −8..7 (R85, R159). -/
  | luma (dg drg dbg : Int)
  /-- `RUN n`, the stored count in 0..61 (R86, R160). -/
  | run (n : Nat)
deriving DecidableEq, Repr

/-- The six classes of the dispatch engine (R87). -/
inductive Opcode where
  | rgb | rgba | index | diff | luma | run
deriving DecidableEq, Repr

/-- The class an instruction belongs to. -/
def Instr.opcode : Instr → Opcode
  | .rgb _ _ _ => .rgb
  | .rgba _ _ _ _ => .rgba
  | .index _ => .index
  | .diff _ _ _ => .diff
  | .luma _ _ _ => .luma
  | .run _ => .run

end Sys2Proof
end

