-- ==== Sys2Proof/WellFormed.lean ====
section
/-! DEFINITION. Which instructions are well formed: the operand constraints of R91 and the ranges of R90. "An assembler refuses any
operand outside its constraint." -/

namespace Sys2Proof

/-- A DIFF delta: −2..1 (R84, R90). -/
def diffDeltaOk (d : Int) : Bool := -2 ≤ d && d ≤ 1

/-- LUMA's green delta: −32..31 (R85, R90). -/
def lumaGreenOk (d : Int) : Bool := -32 ≤ d && d ≤ 31

/-- LUMA's red-minus-green and blue-minus-green values: −8..7 (R85). -/
def lumaSubOk (d : Int) : Bool := -8 ≤ d && d ≤ 7

/-- The operand constraints of R91. RGB and RGBA take any byte (R88: "every byte value is legal"). -/
def Instr.wellFormed : Instr → Bool
  | .rgb _ _ _ => true
  | .rgba _ _ _ _ => true
  | .index idx => decide (idx ≤ 63)
  | .diff dr dg db => diffDeltaOk dr && diffDeltaOk dg && diffDeltaOk db
  | .luma dg drg dbg => lumaGreenOk dg && lumaSubOk drg && lumaSubOk dbg
  | .run n => decide (n ≤ 61)

end Sys2Proof
end

