-- ==== Sys2Proof/Decode.lean ====
section
/-! DEFINITION. The decoder and the encoder, both written from spec/30_encoding.md: Classify (R87), the lengths (R89), the operand
formulas (R80, R90) and, the other way, the encodings of R91. -/

namespace Sys2Proof

/-- The bit field `b[lo+w−1 : lo]` of a byte as an unsigned number (R7). -/
def bitField (b : Byte) (lo w : Nat) : Nat := b.toNat / 2 ^ lo % 2 ^ w

/-- Classify (R87): the two 8-bit tags are tested before the 2-bit tags. Total: no byte is reserved (R88). -/
def classify (b1 : Byte) : Opcode :=
  if b1 = 0xFE then .rgb
  else if b1 = 0xFF then .rgba
  else if bitField b1 6 2 = 0b00 then .index
  else if bitField b1 6 2 = 0b01 then .diff
  else if bitField b1 6 2 = 0b10 then .luma
  else .run

/-- The length in bytes of an opcode, the opcode byte included (R89). -/
def opLength : Opcode → Nat
  | .rgb => 4
  | .rgba => 5
  | .index => 1
  | .diff => 1
  | .luma => 2
  | .run => 1

/-- Why a byte list is no instruction. A list can only be too short: every opcode byte has a class (R88). -/
inductive DecodeError where
  /-- The list is empty. -/
  | noOpcodeByte
  /-- The opcode byte is there and its data bytes are not. -/
  | missingData (op : Opcode)
deriving DecidableEq, Repr

/-- The decoder's answer: the instruction with the bytes after it, or a rejection by name. -/
inductive Decoded where
  | ok (i : Instr) (rest : List Byte)
  | rejected (e : DecodeError)
deriving DecidableEq, Repr

/-- INDEX operand: `idx = b1[5:0]` (R83). -/
def fieldIndex (b1 : Byte) : Nat := bitField b1 0 6

/-- DIFF operands: `b1[5:4] − 2`, `b1[3:2] − 2`, `b1[1:0] − 2` (R84, R90). -/
def fieldDiff (b1 : Byte) : Instr :=
  .diff ((bitField b1 4 2 : Int) - 2) ((bitField b1 2 2 : Int) - 2) ((bitField b1 0 2 : Int) - 2)

/-- LUMA operands: `b1[5:0] − 32`, `b2[7:4] − 8`, `b2[3:0] − 8` (R85, R90). -/
def fieldLuma (b1 b2 : Byte) : Instr :=
  .luma ((bitField b1 0 6 : Int) - 32) ((bitField b2 4 4 : Int) - 8) ((bitField b2 0 4 : Int) - 8)

/-- RUN operand: `n = b1[5:0]` (R86). -/
def fieldRun (b1 : Byte) : Nat := bitField b1 0 6

/-- The decoder, total on every byte list. -/
def decode : List Byte → Decoded
  | [] => .rejected .noOpcodeByte
  | b1 :: data =>
    match classify b1 with
    | .rgb =>
      match data with
      | r :: g :: b :: rest => .ok (.rgb r g b) rest
      | _ => .rejected (.missingData .rgb)
    | .rgba =>
      match data with
      | r :: g :: b :: a :: rest => .ok (.rgba r g b a) rest
      | _ => .rejected (.missingData .rgba)
    | .index => .ok (.index (fieldIndex b1)) data
    | .diff => .ok (fieldDiff b1) data
    | .luma =>
      match data with
      | b2 :: rest => .ok (fieldLuma b1 b2) rest
      | _ => .rejected (.missingData .luma)
    | .run => .ok (.run (fieldRun b1)) data

/-- The byte of an integer that fits one (the encodings of R91 are sums in 0..255). -/
def encByte (n : Int) : Byte := BitVec.ofInt 8 n

/-- The encoder: the "encoding produced" column of R91. -/
def encode : Instr → List Byte
  | .rgb r g b => [0xFE, r, g, b]
  | .rgba r g b a => [0xFF, r, g, b, a]
  | .index idx => [encByte (0x00 + idx)]
  | .diff dr dg db => [encByte (0x40 + 16 * (dr + 2) + 4 * (dg + 2) + (db + 2))]
  | .luma dg drg dbg => [encByte (0x80 + (dg + 32)), encByte (16 * (drg + 8) + (dbg + 8))]
  | .run n => [encByte (0xC0 + n)]

/-- The four bytes of a u32, big-endian (R54). -/
def bigEndian (w : Word) : List Byte :=
  [w.extractLsb' 24 8, w.extractLsb' 16 8, w.extractLsb' 8 8, w.extractLsb' 0 8]

/-- The `HEADER w, h, ch, cs` directive of R91: the 14 header bytes of R53. -/
def headerDirective (w h : Word) (ch cs : Byte) : List Byte :=
  [0x71, 0x6F, 0x69, 0x66] ++ bigEndian w ++ bigEndian h ++ [ch, cs]

/-- The `END` directive of R91. The block never inspects these bytes (R53). -/
def endDirective : List Byte := [0, 0, 0, 0, 0, 0, 0, 1]

/-- The bytes of an instruction numbered as the opcode table numbers it: bit 0 is the least significant bit of the first byte.
Bits above `nbits` are 0; five bytes, the longest opcode (R82). -/
def tableBytes (nbits w : Nat) : List Byte :=
  let v := w % 2 ^ nbits
  [BitVec.ofNat 8 v, BitVec.ofNat 8 (v / 2 ^ 8), BitVec.ofNat 8 (v / 2 ^ 16), BitVec.ofNat 8 (v / 2 ^ 24),
    BitVec.ofNat 8 (v / 2 ^ 32)]

/-- The instruction the decoder reads from a table word. -/
def decodeTableWord (nbits w : Nat) : Option Instr :=
  match decode (tableBytes nbits w) with
  | .ok i _ => some i
  | .rejected _ => none

end Sys2Proof
end

