-- ==== Sys2Proof/Config.lean ====
section
/-! DEFINITION. What is fixed for one machine and what the spec leaves free: the sizes of R6, the value an unlisted memory byte
reads as, the OUT size at reset, and the free draws of R20, R108 and R200. The decode-start values stand in Machine/Ops.lean and the
header's literals in Machine/Header.lean. -/

namespace Sys2Proof.Config

/-- CACHE_SLOTS (R6, R25). -/
abbrev cacheSlots : Nat := 64

/-- What a byte of IN or OUT that nothing has written reads as. The spec gives no power-on content of either space.
DESIGN CHOICE, unsafe: log entry 3. -/
def unlistedByte : Byte := 0

/-- OUT_BYTES of the machine `State.reset` describes. R6 leaves OUT_BYTES OPEN; 1,599,999,996 is the size R202 step 4 names as enough for
every header. DESIGN CHOICE, unsafe: log entry 4. No statement rests on it: `State.outBytes` is a field, so statements hold for every size. -/
def outBytesAtReset : Nat := 1599999996

/-- FREE VALUES (no body: nothing can be proved of them). The draws of the reset event (R200: PREV, RUN, CUR and CACHE are
"unspecified values. A model draws them freely") and of a failing header step (R108: "unspecified values (a free draw)"), each
applied to the draw counter `State.draws`. Log entry 5. -/
opaque freeColor : Nat → Color

/-- Free draw of a u6 register (RUN at the reset event, R200). Log entry 5. -/
opaque freeRun : Nat → BitVec 6

/-- Free draw of a u32 register (CUR at the reset event, R200; WIDTH and HEIGHT after a failing header step, R108). Log entry 5. -/
opaque freeWord : Nat → Word

/-- Free draw of a u8 register (CHANNELS and COLORSPACE after a failing header step, R108). Log entry 5. -/
opaque freeByte : Nat → Byte

end Sys2Proof.Config
end

