-- ==== Sys2Proof/Machine/State.lean ====
section
/-! DEFINITION. The state of the block: every register of spec/10_state.md R20, the two byte spaces IN and OUT of
spec/20_memory.md R50, and the model's own fields (the host's scheduled moves, the host's last read, the draw counter). -/

namespace Sys2Proof.Machine

/-- STATE, the sequencer's state (R28). R35 numbers them 0 to 4; the values 5 to 7 never occur, so the type lacks them. -/
inductive SeqState where
  | idle | header | pixels | done | fail
deriving DecidableEq, Repr

/-- MODE, the mode of the last accepted command (R20, R35). -/
inductive Mode where
  | decode | validate
deriving DecidableEq, Repr

/-- ERRCODE by the names of R180. The codes 6 and 7 are never produced, so the type lacks them. -/
inductive ErrCode where
  | none | bufferTooShort | badMagic | badDimensions | badChannels | badColorspace
deriving DecidableEq, Repr

/-- A byte space in its canonical form: addresses strictly rising, no entry equal to what an unlisted address reads as. -/
abbrev Memory := List Host.Cell

/-- A host register access: the byte offset in the 64-byte window (R33) and the access size in bytes. -/
structure RegAccess where
  offset : BitVec 6
  size : Nat
deriving DecidableEq, Repr

/-- One move of the host (R16: "The host is a second party"), or of the reset input (R200). The list `State.hostMoves` says which
moves the host makes and when: `wait` hands one turn to the block. DESIGN CHOICE of form, log entry 1. -/
inductive HostMove where
  /-- The host lets the block take one step. -/
  | wait
  /-- A write of a 32-bit value to the register window (R33, R34, R36). -/
  | regWrite (acc : RegAccess) (v : Word)
  /-- A read of the register window (R33, R35, R36). -/
  | regRead (acc : RegAccess)
  /-- A write of one byte of IN (R50, R202 step 2, R203). -/
  | inWrite (a : Word) (v : Byte)
  /-- A write of one byte of OUT (R37's host row, R203). -/
  | outWrite (a : Word) (v : Byte)
  /-- A read of one byte of OUT (R50, R204). -/
  | outRead (a : Word)
  /-- The host looks at the signal irq_done (R20, R31). -/
  | irqSample
  /-- The reset input is asserted (R200). -/
  | reset
deriving DecidableEq, Repr

/-- The reasons a step stops with a fault. The first three are the spec's `ModelFault` reasons (R11, R186, R187). -/
inductive Fault where
  /-- `ModelFault(InReadOutOfBounds)` (R51, R186): raised by an IN read past LEN. Safe: the spec names the fault, and no step raises it (R58). -/
  | inReadOutOfBounds
  /-- `ModelFault(OutOverflow)` (R52, R187): raised by an OUT write at an address ≥ OUT_BYTES, a violated host obligation. Safe: the spec
  names the fault. -/
  | outOverflow
  /-- `ModelFault(UnmatchedOpcode)` (R88, R186): raised when fetched bytes decode to nothing. Safe: the spec names the fault, and no step
  raises it (R88). -/
  | unmatchedOpcode
  /-- A host read of OUT at an address ≥ OUT_BYTES: the address does not exist (R50). Safe: the model stops. Log entry 8. -/
  | outReadOutOfRange
deriving DecidableEq, Repr

/-- The reasons a step is refused. -/
inductive Refusal where
  /-- An instruction with no meaning yet, by its mnemonic. No arm of exec raises it. Safe. -/
  | notModelled (mnemonic : String)
  /-- A sub-word or misaligned host access of the register window: "A model refuses a sub-word or misaligned host access. The spec gives it
  no meaning" (R36, D24). Safe. -/
  | hostAccessShape
  /-- A host write of IN or OUT while BUSY: "A model gives the host no move that writes IN or OUT while BUSY" (R203, D18). Safe as a stop; what
  such a host would do is outside every claim. -/
  | hostWriteWhileBusy
deriving DecidableEq, Repr

/-- The machine's state. -/
structure State where
  /-- PREV, the running colour (R21). -/
  prev : Color
  /-- RUN, the run-length buffer, u6 (R22). -/
  run : BitVec 6
  /-- CUR, the byte cursor, u32 (R23). -/
  cur : Word
  /-- CACHE[0..63], the colour cache (R25). -/
  cache : Vector Color Config.cacheSlots
  /-- PIX, the pixel index, u32, read by the host as PIXCOUNT (R24). -/
  pix : Word
  /-- WIDTH (R26). -/
  width : Word
  /-- HEIGHT (R26). -/
  height : Word
  /-- CHANNELS (R26). -/
  channels : Byte
  /-- COLORSPACE (R26). -/
  colorspace : Byte
  /-- LEN, the length in bytes of the encoded buffer (R30). -/
  len : Word
  /-- STATE, the sequencer's state (R28). -/
  seq : SeqState
  /-- MODE (R20, R35). -/
  mode : Mode
  /-- VALID (R29). -/
  valid : Bool
  /-- ERRCODE (R29, R180). -/
  errcode : ErrCode
  /-- The byte space IN (R50, R53). -/
  inMem : Memory
  /-- The byte space OUT (R50, R55). -/
  outMem : Memory
  /-- OUT_BYTES, the size of OUT: an OPEN parameter of the model (R6, R52). No step changes it. Log entry 4. -/
  outBytes : Nat
  /-- The model's own: the host's moves still to come, first first. Log entry 1. -/
  hostMoves : List HostMove
  /-- The model's own: the word the host's last read returned. Log entry 2. -/
  hostData : Word
  /-- The model's own: how many free draws have been taken. Log entry 5. -/
  draws : Nat
deriving DecidableEq, Repr

/-- The machine right after reset (R20, R33, R200). PREV, RUN, CUR and CACHE have no reset value in the spec ("unspecified"); their
zeros, the empty byte spaces, the OUT size and the model's own fields are DESIGN CHOICES, log entries 1 to 6. -/
def State.reset : State where
  prev := { r := 0, g := 0, b := 0, a := 0 }
  run := 0
  cur := 0
  cache := Vector.replicate Config.cacheSlots { r := 0, g := 0, b := 0, a := 0 }
  pix := 0
  width := 0
  height := 0
  channels := 0
  colorspace := 0
  len := 0
  seq := .idle
  mode := .decode
  valid := false
  errcode := .none
  inMem := []
  outMem := []
  outBytes := Config.outBytesAtReset
  hostMoves := []
  hostData := 0
  draws := 0

end Sys2Proof.Machine
end

