-- ==== Sys2Proof/Machine/Ops.lean ====
section
/-! DEFINITION. The shared operations: bytes of IN and OUT (spec/20_memory.md), the register updates, error entry and the command step that
leaves it (spec/60_exceptions.md R182, R183), decode start (spec/41_dispatch_sequencer.md R121) and the reset event
(spec/70_reset_and_hazards.md R200). -/

namespace Sys2Proof.Machine

/-- What one step of this machine answers. -/
abbrev Result := Host.Outcome State Fault Refusal

/-- Do `f` after `o`; a fault or a refusal of `o` ends it. -/
def andThen (o : Result) (f : State → Result) : Result :=
  match o with
  | .next s => f s
  | .fault r => .fault r
  | .refused r => .refused r

/-! ### Byte spaces -/

/-- The canonical form of a byte space. -/
def Memory.wf : Memory → Bool
  | [] => true
  | (k, v) :: m => decide (v ≠ Config.unlistedByte) && m.all (fun c => decide (k < c.1)) && Memory.wf m

/-- The byte at an address. -/
def Memory.read : Memory → Nat → Byte
  | [], _ => Config.unlistedByte
  | (k, v) :: m, a => if a = k then v else Memory.read m a

/-- Write one byte, keeping the canonical form. -/
def Memory.write : Memory → Nat → Byte → Memory
  | [], a, v => if v = Config.unlistedByte then [] else [(a, v)]
  | (k, w) :: m, a, v =>
    if a < k then
      if v = Config.unlistedByte then (k, w) :: m else (a, v) :: (k, w) :: m
    else if a = k then
      if v = Config.unlistedByte then m else (a, v) :: m
    else (k, w) :: Memory.write m a v

/-- Write bytes at consecutive addresses, the first at `a`. -/
def Memory.writeBytes : Memory → Nat → List Byte → Memory
  | m, _, [] => m
  | m, a, v :: vs => Memory.writeBytes (Memory.write m a v) (a + 1) vs

/-- The `n` bytes from address `a` on. -/
def Memory.bytes (m : Memory) (a : Nat) : Nat → List Byte
  | 0 => []
  | n + 1 => Memory.read m a :: Memory.bytes m (a + 1) n

/-- Bytes as a big-endian number: `x || y` with `x` more significant (R10, R54). -/
def beValue (bs : List Byte) : Nat := bs.foldl (fun acc b => acc * 256 + b.toNat) 0

/-- The bytes `MemRead(IN, a, n)` concatenates (R10, R51): none where `a + n > LEN`, which R51 makes a fault. -/
def readIn (s : State) (a n : Nat) : Option (List Byte) :=
  if a + n ≤ s.len.toNat then some (s.inMem.bytes a n) else none

/-- `MemWrite(OUT, a, 1, v)` (R52). -/
def writeOut (a : Nat) (v : Byte) (s : State) : Result :=
  if a < s.outBytes then .next { s with outMem := s.outMem.write a v } else .fault .outOverflow

/-- Single-byte OUT writes at consecutive addresses, in rising order (R57). -/
def writeOutBytes (a : Nat) (vs : List Byte) (s : State) : Result :=
  match vs with
  | [] => .next s
  | v :: rest => andThen (writeOut a v s) (writeOutBytes (a + 1) rest)

/-- The opcode at CUR, byte by byte: the opcode byte is read first, its data bytes at CUR+1 .. CUR+L−1 after it (R123, R206). -/
def fetchBytes (s : State) : Option (List Byte) :=
  match readIn s s.cur.toNat 1 with
  | some (b1 :: _) =>
    match readIn s (s.cur.toNat + 1) (opLength (classify b1) - 1) with
    | some data => some (b1 :: data)
    | none => none
  | _ => none

/-! ### Register updates -/

/-- `PREV <- c`. -/
def State.setPrev (s : State) (c : Color) : State := { s with prev := c }

/-- `RUN <- n`. -/
def State.setRun (s : State) (n : BitVec 6) : State := { s with run := n }

/-- `CUR <- CUR + k` (R23). -/
def State.advanceCur (s : State) (k : Nat) : State := { s with cur := s.cur + BitVec.ofNat 32 k }

/-- `CACHE[i] <- c`: a write replaces the whole slot, no other slot changes (R147). -/
def State.setSlot (s : State) (i : Fin Config.cacheSlots) (c : Color) : State := { s with cache := s.cache.set i c }

/-- `CacheRead(i)` (R147). -/
def State.slot (s : State) (i : Fin Config.cacheSlots) : Color := s.cache[i]

/-- NPIX = WIDTH × HEIGHT, an exact product (R27). -/
def State.npix (s : State) : Nat := s.width.toNat * s.height.toNat

/-- OUT_LEN = NPIX × CHANNELS (R27). -/
def State.outLen (s : State) : Nat := s.npix * s.channels.toNat

/-! ### Errors and commands -/

/-- Error entry, `Fail(code)` of R108 and R182: ERRCODE and STATE are written, and the header registers take unspecified values (free draws,
log entry 5). VALID stays as it is; nothing else is saved or changed. -/
def State.enterFail (s : State) (e : ErrCode) : State :=
  { s with
    errcode := e
    width := Config.freeWord s.draws
    height := Config.freeWord (s.draws + 1)
    channels := Config.freeByte s.draws
    colorspace := Config.freeByte (s.draws + 1)
    draws := s.draws + 2
    seq := .fail }

/-- The command step (R183). It is also the only way out of FAIL but reset: the block has no return-from-trap operation (R184). -/
def State.commandStep (s : State) (m : Mode) : State :=
  { s with mode := m, valid := false, errcode := .none, pix := 0, seq := .header }

/-! ### Decode start and reset -/

/-- PREV_INIT (R6, R121). -/
def prevInit : Color := { r := 0, g := 0, b := 0, a := 255 }

/-- CACHE_INIT (R6, R121; 90_conflicts.md C4 chooses all-zero). -/
def cacheInit : Color := { r := 0, g := 0, b := 0, a := 0 }

/-- CUR_INIT: the end of the header (R6, R121). -/
def curInit : Word := 14

/-- Decode start (R121). -/
def State.decodeStart (s : State) : State :=
  { s with prev := prevInit, run := 0, cur := curInit, cache := Vector.replicate Config.cacheSlots cacheInit }

/-- The reset event (R200): every register of R20 to its reset value, PREV, RUN, CUR and CACHE to free draws (log entry 5). IN, OUT and the
size of OUT stay as they are, and so do the model's own fields but the draw counter. -/
def State.resetEvent (s : State) : State :=
  { s with
    prev := Config.freeColor s.draws
    run := Config.freeRun s.draws
    cur := Config.freeWord s.draws
    cache := Vector.ofFn fun i : Fin Config.cacheSlots => Config.freeColor (s.draws + 1 + i.val)
    pix := 0
    width := 0
    height := 0
    channels := 0
    colorspace := 0
    len := 0
    seq := .idle
    mode := .decode
    valid := false
    errcode := .none
    draws := s.draws + 1 + Config.cacheSlots }

end Sys2Proof.Machine
end

