-- ==== Sys2Proof/Machine/Flags.lean ====
section
/-! DEFINITION. Status: BUSY, irq_done, and the STATUS and ERRCODE words (spec/10_state.md R28 to R35). The block has no condition codes; no
opcode reads or writes a flag (R29). -/

namespace Sys2Proof.Machine

/-- BUSY: STATE ∈ {HEADER, PIXELS} (R28, R35). -/
def SeqState.busy : SeqState → Bool
  | .header | .pixels => true
  | .idle | .done | .fail => false

/-- irq_done: 1 exactly when STATE ∈ {DONE, FAIL} (R31). -/
def SeqState.finished : SeqState → Bool
  | .done | .fail => true
  | .idle | .header | .pixels => false

/-- BUSY of the machine. -/
def State.busy (s : State) : Bool := s.seq.busy

/-- The output signal irq_done (R20, R31): derived from STATE, never stored. -/
def State.irqDone (s : State) : Bool := s.seq.finished

/-- STATUS[2:0] (R35). -/
def SeqState.code : SeqState → BitVec 3
  | .idle => 0
  | .header => 1
  | .pixels => 2
  | .done => 3
  | .fail => 4

/-- STATUS[5] (R35). -/
def Mode.code : Mode → BitVec 1
  | .decode => 0
  | .validate => 1

/-- ERRCODE[2:0] (R180). -/
def ErrCode.code : ErrCode → BitVec 3
  | .none => 0
  | .bufferTooShort => 1
  | .badMagic => 2
  | .badDimensions => 3
  | .badChannels => 4
  | .badColorspace => 5

/-- One bit. -/
def bit (b : Bool) : BitVec 1 := if b then 1 else 0

/-- The STATUS word: [31:6] 0, [5] MODE, [4] BUSY, [3] VALID, [2:0] STATE (R33, R35). -/
def State.statusWord (s : State) : Word :=
  (0 : BitVec 26) ++ s.mode.code ++ bit s.busy ++ bit s.valid ++ s.seq.code

/-- The ERRCODE word: [31:3] 0, [2:0] code (R33). -/
def State.errWord (s : State) : Word := (0 : BitVec 29) ++ s.errcode.code

end Sys2Proof.Machine
end

