-- ==== Sys2Proof/Machine/Color.lean ====
section
/-! DEFINITION. The colour arithmetic unit and the cache ports (spec/42_color_arithmetic.md R140 to R149). No operation saturates, traps or
sets a flag (R149). -/

namespace Sys2Proof.Machine

/-- `add8(x, d) = (x + d) mod 256` (R140). -/
def add8 (x : Byte) (d : Int) : Byte := BitVec.ofInt 8 ((x.toNat : Int) + d)

/-- `sub8(x, y) = (x − y) mod 256` (R141). -/
def sub8 (x : Byte) (y : Int) : Byte := BitVec.ofInt 8 ((x.toNat : Int) - y)

/-- `ApplyDelta(c, dr, dg, db)`: three independent lanes, alpha passes through (R143). -/
def applyDelta (c : Color) (dr dg db : Int) : Color :=
  { r := add8 c.r dr, g := add8 c.g dg, b := add8 c.b db, a := c.a }

/-- `ColorEq` (R146): all four channels count. -/
def colorEq (c d : Color) : Bool := c.r == d.r && c.g == d.g && c.b == d.b && c.a == d.a

/-- `Hash(c) = (3·c.r + 5·c.g + 7·c.b + 11·c.a) mod 64` (R144). -/
def hash (c : Color) : Fin Config.cacheSlots :=
  ⟨(3 * c.r.toNat + 5 * c.g.toNat + 7 * c.b.toNat + 11 * c.a.toNat) % Config.cacheSlots, Nat.mod_lt _ (by decide)⟩

/-- The cache update (R125), `CacheWrite(PREV)` of R147: slot Hash(PREV) takes PREV. -/
def State.cacheUpdate (s : State) : State := s.setSlot (hash s.prev) s.prev

end Sys2Proof.Machine
end

