-- ==== Sys2Proof/Machine/Operands.lean ====
section
/-! DEFINITION. How each opcode's operands become datapath values (spec/30_encoding.md R90). The fields themselves are taken out of the
bytes in Decode.lean. -/

namespace Sys2Proof.Machine

/-- RGB's new colour: literal r, g, b, and the alpha PREV has (R155). -/
def literalRgb (prev : Color) (r g b : Byte) : Color := { r := r, g := g, b := b, a := prev.a }

/-- RGBA's new colour (R156). -/
def literalRgba (r g b a : Byte) : Color := { r := r, g := g, b := b, a := a }

/-- The cache slot an INDEX operand names, in 0..63 (R83). -/
def indexSlot (idx : Nat) : Fin Config.cacheSlots := ⟨idx % Config.cacheSlots, Nat.mod_lt _ (by decide)⟩

/-- LUMA's red or blue delta: `vg − 8 + field`, with the operand `sub = field − 8` (R90, R159). -/
def lumaDelta (vg sub : Int) : Int := vg + sub

/-- The value RUN takes (R160); RUN is 6 bits wide (R22). -/
def runCount (n : Nat) : BitVec 6 := BitVec.ofNat 6 n

end Sys2Proof.Machine
end

