-- ==== Sys2Proof/Machine/Pixel.lean ====
section
/-! DEFINITION. The output sequencer (spec/41_dispatch_sequencer.md R127, R128) and the six opcodes (spec/43_opcodes.md R155 to R160). The
meaning of an opcode is the whole opcode-resolved pixel step of R120 and R123: its Exec procedure, then the cache update (R125), then
the emit, the pixel count and completion (log entry 14). -/

namespace Sys2Proof.Machine

/-- The bytes a pixel slot takes: r, g, b, and a only when CHANNELS = 4 (R127). -/
def State.pixelBytes (s : State) : List Byte :=
  if s.channels = 4 then [s.prev.r, s.prev.g, s.prev.b, s.prev.a] else [s.prev.r, s.prev.g, s.prev.b]

/-- The OUT address of the current pixel slot: PIX × CHANNELS (R24, R127). -/
def State.slotBase (s : State) : Nat := s.pix.toNat * s.channels.toNat

/-- `Emit(PIX)` (R127). -/
def emit (s : State) : Result := writeOutBytes s.slotBase s.pixelBytes s

/-- `PIX <- PIX + 1`, and STATE <- DONE when PIX = NPIX (R120, R128). -/
def State.countPixel (s : State) : State :=
  { s with pix := s.pix + 1, seq := if (s.pix + 1).toNat = s.npix then .done else s.seq }

/-- The end of every pixel step (R120): emit PREV, count the pixel, complete. -/
def finishPixel (s : State) : Result := andThen (emit s) fun t => .next t.countPixel

/-- The end of every opcode-resolved pixel step: the cache update, then the common end (R123, R206). -/
def finishOpcode (s : State) : Result := finishPixel s.cacheUpdate

/-- RGB (R155). -/
def execRgb (r g b : Byte) (s : State) : Result :=
  finishOpcode ((s.setPrev (literalRgb s.prev r g b)).advanceCur 4)

/-- RGBA (R156). -/
def execRgba (r g b a : Byte) (s : State) : Result :=
  finishOpcode ((s.setPrev (literalRgba r g b a)).advanceCur 5)

/-- INDEX (R157). -/
def execIndex (idx : Nat) (s : State) : Result :=
  finishOpcode ((s.setPrev (s.slot (indexSlot idx))).advanceCur 1)

/-- DIFF (R158). -/
def execDiff (dr dg db : Int) (s : State) : Result :=
  finishOpcode ((s.setPrev (applyDelta s.prev dr dg db)).advanceCur 1)

/-- LUMA (R159). -/
def execLuma (dg drg dbg : Int) (s : State) : Result :=
  finishOpcode ((s.setPrev (applyDelta s.prev (lumaDelta dg drg) dg (lumaDelta dg dbg))).advanceCur 2)

/-- RUN (R160): PREV unchanged. -/
def execRun (n : Nat) (s : State) : Result :=
  finishOpcode ((s.setRun (runCount n)).advanceCur 1)

end Sys2Proof.Machine
end

