-- ==== Sys2Proof/Machine/Header.lean ====
section
/-! DEFINITION. The header stage (spec/40_header_check.md R100 to R112). -/

namespace Sys2Proof.Machine

/-- MAGIC, ASCII "qoif" as a big-endian u32 (R6, R103). -/
def magicWord : Nat := 0x716F6966

/-- PIXELS_MAX (R6, R105). -/
def pixelsMax : Nat := 400000000

/-- HEADER_BYTES (R6, R101). -/
def headerBytes : Nat := 14

/-- The header step's temporaries (R102). -/
structure HeaderFields where
  magic : Nat
  w : Nat
  h : Nat
  ch : Nat
  cs : Nat
deriving DecidableEq, Repr

/-- The five reads of R102, in their order; none where a read would pass LEN. -/
def readHeader (s : State) : Option HeaderFields :=
  match readIn s 0 4, readIn s 4 4, readIn s 8 4, readIn s 12 1, readIn s 13 1 with
  | some m, some w, some h, some ch, some cs =>
    some { magic := beValue m, w := beValue w, h := beValue h, ch := beValue ch, cs := beValue cs }
  | _, _, _, _, _ => none

/-- The pixel-count bound, in the exact division order of R105. -/
def dimensionsOk (w h : Nat) : Bool := decide (w ≠ 0) && decide (h ≠ 0) && decide (h < pixelsMax / w)

/-- The checks of R103 to R107 in the order of R181: the first failing one decides. -/
def headerError (f : HeaderFields) : ErrCode :=
  if f.magic ≠ magicWord then .badMagic
  else if !dimensionsOk f.w f.h then .badDimensions
  else if f.ch ≠ 3 ∧ f.ch ≠ 4 then .badChannels
  else if f.cs ≠ 0 ∧ f.cs ≠ 1 then .badColorspace
  else .none

/-- A passing check loads the header registers and sets VALID (R108). -/
def State.loadHeader (s : State) (f : HeaderFields) : State :=
  { s with
    width := BitVec.ofNat 32 f.w
    height := BitVec.ofNat 32 f.h
    channels := BitVec.ofNat 8 f.ch
    colorspace := BitVec.ofNat 8 f.cs
    valid := true }

/-- The end of a passing header step: VALIDATE is DONE, DECODE starts the pixel stage (R108). -/
def State.headerPassed (s : State) : State :=
  match s.mode with
  | .validate => { s with seq := .done }
  | .decode => { s.decodeStart with seq := .pixels }

/-- The header step (R108), enabled when STATE = HEADER. -/
def headerStep (s : State) : Result :=
  if s.len.toNat < headerBytes then .next (s.enterFail .bufferTooShort)
  else
    match readHeader s with
    | none => .fault .inReadOutOfBounds
    | some f =>
      match headerError f with
      | .none => .next (s.loadHeader f).headerPassed
      | e => .next (s.enterFail e)

end Sys2Proof.Machine
end

