-- ==== Sys2Proof/Machine/HostPort.lean ====
section
/-! DEFINITION. What the host can do: the register window (spec/10_state.md R33 to R36), the bytes of IN and OUT (spec/70_reset_and_hazards.md
R202 to R204) and the reset input (R200). -/

namespace Sys2Proof.Machine

/-- Every access is a whole aligned 32-bit word (R36). -/
def RegAccess.shapeOk (acc : RegAccess) : Bool := acc.size == 4 && acc.offset.toNat % 4 == 0

/-- The value of the register at a byte offset (R33). CMD and the reserved offsets read 0 (R34, R36). -/
def State.readReg (s : State) (offset : BitVec 6) : Word :=
  if offset = 0x04 then s.statusWord
  else if offset = 0x08 then s.errWord
  else if offset = 0x0C then s.len
  else if offset = 0x10 then s.width
  else if offset = 0x14 then s.height
  else if offset = 0x18 then s.channels.setWidth 32
  else if offset = 0x1C then s.colorspace.setWidth 32
  else if offset = 0x20 then s.pix
  else 0

/-- A write to CMD (R34): 1 and 2 are the commands when not BUSY; everything else is ignored. -/
def State.writeCmd (s : State) (v : Word) : State :=
  if s.busy then s
  else if v = 1 then s.commandStep .decode
  else if v = 2 then s.commandStep .validate
  else s

/-- A write to LEN (R30, R36): ignored while BUSY. -/
def State.writeLen (s : State) (v : Word) : State := if s.busy then s else { s with len := v }

/-- A register write (R33 to R36): writes to read-only registers and reserved offsets are ignored. -/
def State.writeReg (s : State) (offset : BitVec 6) (v : Word) : State :=
  if offset = 0x00 then s.writeCmd v
  else if offset = 0x0C then s.writeLen v
  else s

/-- A register write of the host, refused unless it is a whole aligned word (R36). -/
def hostRegWrite (acc : RegAccess) (v : Word) (s : State) : Result :=
  if acc.shapeOk then .next (s.writeReg acc.offset v) else .refused .hostAccessShape

/-- A register read of the host (R36: "Reads have no side effects"). -/
def hostRegRead (acc : RegAccess) (s : State) : Result :=
  if acc.shapeOk then .next { s with hostData := s.readReg acc.offset } else .refused .hostAccessShape

/-- A host write of IN (R202 step 2), at any 32-bit address (log entry 10); there is no such move while BUSY (R203, log entry 12). -/
def hostInWrite (a : Word) (v : Byte) (s : State) : Result :=
  if s.busy then .refused .hostWriteWhileBusy else .next { s with inMem := s.inMem.write a.toNat v }

/-- A host write of OUT (R37's host row); there is no such move while BUSY (R203, log entry 12), and past OUT_BYTES it is OutOverflow (log
entry 8). -/
def hostOutWrite (a : Word) (v : Byte) (s : State) : Result :=
  if s.busy then .refused .hostWriteWhileBusy else writeOut a.toNat v s

/-- A host read of OUT (R50, R204): the byte that stands there, in every STATE (R56, log entry 12); log entry 8 past OUT_BYTES. -/
def hostOutRead (a : Word) (s : State) : Result :=
  if a.toNat < s.outBytes then .next { s with hostData := (s.outMem.read a.toNat).setWidth 32 }
  else .fault .outReadOutOfRange

/-- The host looks at irq_done (R31). -/
def hostIrqSample (s : State) : Result := .next { s with hostData := (bit s.irqDone).setWidth 32 }

end Sys2Proof.Machine
end

