-- ==== Sys2Proof/Machine/Sequencer.lean ====
section
/-! DEFINITION. The pixel step (spec/41_dispatch_sequencer.md R120 to R126), the block's step by STATE (spec/10_state.md R28), and the turn
between host and block (spec/00_scope.md R16). -/

namespace Sys2Proof.Machine

/-- Run-continuation (R122): RUN <- RUN − 1, no byte is read, the cache is not written. -/
def runContinue (s : State) : Result := finishPixel (s.setRun (s.run - 1))

/-- Opcode-resolved (R123): fetch, decode, execute. -/
def opcodeResolved (s : State) : Result :=
  match fetchBytes s with
  | none => .fault .inReadOutOfBounds
  | some bytes =>
    match decode bytes with
    | .ok i _ => exec i s
    | .rejected _ => .fault .unmatchedOpcode

/-- Tail fill (R126): nothing changes but the pixel count. -/
def tailFill (s : State) : Result := finishPixel s

/-- CUR < LEN − 8 as integers: an opcode byte may be fetched (R123). -/
def State.beforeChunkEnd (s : State) : Bool := decide (s.cur.toNat + 8 < s.len.toNat)

/-- The pixel step (R120): the run test comes first, then the cursor. -/
def pixelStep (s : State) : Result :=
  if 0 < s.run.toNat then runContinue s
  else if s.beforeChunkEnd then opcodeResolved s
  else tailFill s

/-- One turn of the block: the header step in HEADER (R100), the pixel step in PIXELS (R120), nothing in the quiescent states (R184, R194):
there the machine stays as it is and waits for the host. Log entry 7. -/
def blockStep (s : State) : Result :=
  match s.seq with
  | .header => headerStep s
  | .pixels => pixelStep s
  | .idle => .next s
  | .done => .next s
  | .fail => .next s

/-- One move of the host or of the reset input. -/
def hostMove (m : HostMove) (s : State) : Result :=
  match m with
  | .wait => blockStep s
  | .regWrite acc v => hostRegWrite acc v s
  | .regRead acc => hostRegRead acc s
  | .inWrite a v => hostInWrite a v s
  | .outWrite a v => hostOutWrite a v s
  | .outRead a => hostOutRead a s
  | .irqSample => hostIrqSample s
  | .reset => .next s.resetEvent

/-- The host's next move if one is scheduled, else a turn of the block (log entry 1). -/
def takeTurn (s : State) : Result :=
  match s.hostMoves with
  | [] => blockStep s
  | m :: ms => hostMove m { s with hostMoves := ms }

end Sys2Proof.Machine
end

