-- ==== Sys2Proof/Machine/Step.lean ====
section
/-! DEFINITION. The step function, and the state the host's per-row check starts from. -/

namespace Sys2Proof.Machine

/-- One atomic step (R16): a host move, the header step, or one pixel step. -/
def step (s : State) : Host.Outcome State Fault Refusal := Sys2Proof.Machine.takeTurn s

/-- The instruction of a table word stored where the next opcode is fetched, with everything that takes (log entry 9). The block fetches opcodes
only inside a decode, so this sets what the host's buffer, the command step and a passing header step would leave: the bytes at
CUR = 14, LEN = 14 + 5 + 8, a 1×1 four-channel header in the header registers, an OUT space with room for it, and STATE = PIXELS.
PREV, CACHE and the draw counter stay as they are. -/
def State.withFetchWord (s : State) (nbits w : Nat) : State :=
  { s with
    inMem := s.inMem.writeBytes 14 (tableBytes nbits w)
    len := 27
    cur := 14
    run := 0
    pix := 0
    width := 1
    height := 1
    channels := 4
    colorspace := 0
    seq := .pixels
    mode := .decode
    valid := true
    errcode := .none
    outBytes := max s.outBytes 4
    hostMoves := [] }

end Sys2Proof.Machine
end

