-- ==== Sys2Proof/Safety.lean ====
section
/-! DEFINITION. The terms claims are stated in: when the block has a turn, what lies at CUR, room in OUT, and the invariants of a machine
that runs as the spec says. -/

namespace Sys2Proof.Machine

/-- In `u` the next turn is the block's, and `s` is the state it then steps from: no host move is scheduled, or the next one is `wait`. -/
def BlockTurn (u s : State) : Prop :=
  (u.hostMoves = [] ∧ s = u) ∨ ∃ ms, u.hostMoves = .wait :: ms ∧ s = { u with hostMoves := ms }

/-- In `u` the host makes move `m` next, and `s` is the state it is made in. -/
def HostTurn (m : HostMove) (u s : State) : Prop :=
  ∃ ms, u.hostMoves = m :: ms ∧ s = { u with hostMoves := ms }

/-- The block is about to fetch an opcode (R120, R123), and the bytes of IN from CUR on are `bs`. -/
structure FetchesAtCur (s : State) (bs : List Byte) : Prop where
  inPixels : s.seq = .pixels
  noRun : s.run = 0
  beforeEnd : s.cur.toNat + 8 < s.len.toNat
  bytesAtCur : s.inMem.bytes s.cur.toNat bs.length = bs

/-- How many bytes a pixel step emits: 4 when CHANNELS = 4, else 3 (R127). -/
def State.emitCount (s : State) : Nat := if s.channels = 4 then 4 else 3

/-- OUT has room for the current pixel slot, which begins at PIX × CHANNELS (R52, R127). -/
def State.RoomForPixel (s : State) : Prop := s.pix.toNat * s.channels.toNat + s.emitCount ≤ s.outBytes

/-- The header registers hold a header that passes R104 to R107. -/
structure State.HeaderGood (s : State) : Prop where
  widthPos : s.width ≠ 0
  heightPos : s.height ≠ 0
  bound : s.height.toNat < 400000000 / s.width.toNat
  channels : s.channels = 3 ∨ s.channels = 4
  colorspace : s.colorspace = 0 ∨ s.colorspace = 1

/-- The header registers and LEN of a decode under way, with the cursor and the run where R22, R23, R58 and R120 say they are. -/
structure State.Decoding (s : State) : Prop where
  good : s.HeaderGood
  passed : s.valid = true ∧ s.errcode = .none ∧ s.mode = .decode
  pixBound : s.pix.toNat < s.npix
  lenBound : 14 ≤ s.len.toNat
  curLow : 14 ≤ s.cur.toNat
  curHigh : s.cur.toNat = 14 ∨ s.cur.toNat + 4 ≤ s.len.toNat
  runBound : s.run.toNat ≤ 61

/-- A finished command: the header passed, and PIX counts the whole image after a DECODE and nothing after a VALIDATE (R111, R128). -/
structure State.Finished (s : State) : Prop where
  good : s.HeaderGood
  passed : s.valid = true ∧ s.errcode = .none
  decoded : s.mode = .decode → s.pix.toNat = s.npix
  validated : s.mode = .validate → s.pix = 0

/-- The invariant of the machine: both byte spaces are canonical and lie inside their address ranges (R50, R52), and the registers agree with
STATE as R22 to R29, R37, R58, R110, R128 and R182 say. -/
structure State.Inv (s : State) : Prop where
  inWf : s.inMem.wf = true
  outWf : s.outMem.wf = true
  inRange : ∀ c ∈ s.inMem, c.1 < 2 ^ 32
  outRange : ∀ c ∈ s.outMem, c.1 < s.outBytes
  idle : s.seq = .idle → s.valid = false ∧ s.errcode = .none
  header : s.seq = .header → s.valid = false ∧ s.errcode = .none ∧ s.pix = 0
  pixels : s.seq = .pixels → s.Decoding
  done : s.seq = .done → s.Finished
  fail : s.seq = .fail → s.valid = false ∧ s.errcode ≠ .none ∧ s.pix = 0

/-- During a decode every cache slot holds CACHE_INIT or a colour that hashes to that slot (90_conflicts.md C3: "Every decoder write stores a
colour c at slot hash(c)"). -/
def State.CacheInv (s : State) : Prop :=
  s.seq = .pixels → ∀ i : Fin Config.cacheSlots, s.slot i = cacheInit ∨ hash (s.slot i) = i

/-- The OUT bytes of pixel slot `p`, as the header registers lay them out (R55). -/
def State.outPixel (s : State) (p : Nat) : List Byte := s.outMem.bytes (p * s.channels.toNat) s.channels.toNat

/-- The bytes of a colour in one pixel slot of `n` channels: r, g, b, and a when n = 4 (R55, R127). -/
def colorBytes (n : Byte) (c : Color) : List Byte := if n = 4 then [c.r, c.g, c.b, c.a] else [c.r, c.g, c.b]

/-- What the opcode-resolved pixel step of an opcode with new colour `c`, run `n` and length `k` leaves (R120, R123, R125, R155 to R161): PREV,
RUN, CUR, the one cache slot written, the pixel count, STATE, and the flags, which no opcode writes. -/
structure OpcodeResult (s t : State) (c : Color) (n : BitVec 6) (k : Nat) : Prop where
  prev : t.prev = c
  run : t.run = n
  cur : t.cur = s.cur + BitVec.ofNat 32 k
  slotWritten : t.slot (hash c) = c
  otherSlots : ∀ i, i ≠ hash c → t.slot i = s.slot i
  pix : t.pix = s.pix + 1
  seq : t.seq = if (s.pix + 1).toNat = s.npix then .done else s.seq
  flags : t.valid = s.valid ∧ t.errcode = s.errcode

/-- `k` steps of the machine, stopping at the first fault or refusal. -/
def runSteps : Nat → State → Result
  | 0, s => .next s
  | k + 1, s => andThen (step s) (runSteps k)

/-- Two states whose next decode has the same input: LEN, the LEN bytes of IN, the command, and the size of OUT (R131). -/
structure SameInput (s s' : State) : Prop where
  len : s'.len = s.len
  mode : s'.mode = s.mode
  outBytes : s'.outBytes = s.outBytes
  bytes : ∀ a < s.len.toNat, s'.inMem.read a = s.inMem.read a

/-- The two ModelFault reasons that R186 calls impossible cases: no step may answer one (R58, R88). -/
def impossibleFault (f : Fault) : Bool := f == .inReadOutOfBounds || f == .unmatchedOpcode

end Sys2Proof.Machine
end

