-- ==== Sys2Proof/Certificates/Slice0/Obligations.lean ====
section
/-! DEFINITION. The statements for the provers, from the numbered rules of spec/. -/

open Sys2Proof Sys2Proof.Machine

/-! ### Encoding -/

/-- R80, R87, R89, R91: decoding what the encoder writes gives the instruction back, for every well-formed instruction and whatever follows. -/
def Obligations.DecodeOfEncodeReturnsTheInstruction : Prop :=
  ∀ (i : Instr) (rest : List Byte), i.wellFormed = true → decode (encode i ++ rest) = .ok i rest

/-- R80, R87, R90, R91: whatever the decoder answers is well formed, and its encoding is exactly the bytes read. -/
def Obligations.DecodedInstructionEncodesToTheBytesRead : Prop :=
  ∀ (bs : List Byte) (i : Instr) (rest : List Byte), decode bs = .ok i rest → i.wellFormed = true ∧ encode i ++ rest = bs

/-- R88, R89: every opcode byte decodes to one opcode of its own class as soon as its data bytes are there, consuming exactly the length R89 gives;
with fewer bytes it is rejected as missing data. -/
def Obligations.EveryOpcodeByteDecodesWithItsLength : Prop :=
  ∀ (b1 : Byte) (data : List Byte),
    (opLength (classify b1) ≤ data.length + 1 →
      ∃ i, decode (b1 :: data) = .ok i (data.drop (opLength (classify b1) - 1)) ∧ i.opcode = classify b1) ∧
    (data.length + 1 < opLength (classify b1) → decode (b1 :: data) = .rejected (.missingData (classify b1))) ∧
    opLength (classify b1) = (match classify b1 with | .rgb => 4 | .rgba => 5 | .index => 1 | .diff => 1 | .luma => 2 | .run => 1)

/-- R87: Classify on the fields of b1, the mask and match table with the first match winning, and the sizes of the six classes. -/
def Obligations.ClassifyFollowsTheMaskAndMatchTable : Prop :=
  (∀ b1 : Byte, classify b1 =
    if b1 = 0xFE then .rgb else if b1 = 0xFF then .rgba else if b1.extractLsb' 6 2 = 0b00#2 then .index
    else if b1.extractLsb' 6 2 = 0b01#2 then .diff else if b1.extractLsb' 6 2 = 0b10#2 then .luma else .run) ∧
  (∀ b1 : Byte, classify b1 =
    if b1 &&& 0xFF = 0xFE then .rgb else if b1 &&& 0xFF = 0xFF then .rgba else if b1 &&& 0xC0 = 0x00 then .index
    else if b1 &&& 0xC0 = 0x40 then .diff else if b1 &&& 0xC0 = 0x80 then .luma else .run) ∧
  (∀ b1 : Byte, classify b1 = .run → b1 &&& 0xC0 = 0xC0) ∧
  [Opcode.rgb, .rgba, .index, .diff, .luma, .run].map
    (fun op => ((List.range 256).filter fun n => decide (classify (BitVec.ofNat 8 n) = op)).length) = [1, 1, 64, 64, 64, 62]

/-- Sanity, from 95_test_vectors.md EN-2, EN-5, EN-8, EN-9, RG-1, RA-1, P3: words written out by hand decode to their instructions. -/
def Obligations.HandWrittenWordsDecode : Prop :=
  decode [0xFE, 0x0A, 0x14, 0x1E] = .ok (.rgb 10 20 30) [] ∧
  decode [0xFF, 0x01, 0x02, 0x03, 0x04] = .ok (.rgba 1 2 3 4) [] ∧
  decode [0b00111111] = .ok (.index 63) [] ∧
  decode [0b01011011] = .ok (.diff (-1) 0 1) [] ∧
  decode [0b10101000, 0b01101011] = .ok (.luma 8 (-2) 3) [] ∧
  decode [0b11111101] = .ok (.run 61) [] ∧
  decode [0b11000000] = .ok (.run 0) []

/-! ### Colour arithmetic -/

/-- R140, R141, R142: add8 and sub8 are exact sums and differences mod 256, the corner cases and examples, and the three laws. -/
def Obligations.ModularArithmeticLaws : Prop :=
  ∀ (x : Byte) (d e : Int),
    ((add8 x d).toNat : Int) = (x.toNat + d) % 256 ∧
    ((sub8 x d).toNat : Int) = (x.toNat - d) % 256 ∧
    sub8 x d = add8 x (-d) ∧
    add8 (add8 x d) e = add8 x (d + e) ∧
    add8 x d = add8 x (d % 256) ∧
    sub8 (add8 x d) d = x ∧
    add8 x 0 = x ∧ add8 x 256 = x ∧ add8 255 1 = 0 ∧ add8 0 (-2) = 254 ∧ add8 250 10 = 4 ∧ sub8 0 1 = 255 ∧ sub8 3 5 = 254

/-- R144, R145: the hash is the exact formula mod 64, only the low 6 bits of each channel count, and wrapping arithmetic of any width of at least
6 bits gives the same slot. -/
def Obligations.HashDependsOnLowSixBitsOnly : Prop :=
  (∀ c : Color, (hash c).val = (3 * c.r.toNat + 5 * c.g.toNat + 7 * c.b.toNat + 11 * c.a.toNat) % 64) ∧
  (∀ c : Color, (hash c).val =
    (3 * (c.r.toNat % 64) + 5 * (c.g.toNat % 64) + 7 * (c.b.toNat % 64) + 11 * (c.a.toNat % 64)) % 64) ∧
  (hash { r := 0, g := 0, b := 0, a := 0 }).val = 0 ∧ (hash { r := 0, g := 0, b := 0, a := 255 }).val = 53 ∧
  (hash { r := 255, g := 255, b := 255, a := 255 }).val = 38 ∧ (hash { r := 1, g := 2, b := 3, a := 4 }).val = 14 ∧
  ∀ (c : Color) (w : Nat), 6 ≤ w →
    (hash c).val = (BitVec.ofNat w 3 * c.r.setWidth w + BitVec.ofNat w 5 * c.g.setWidth w + BitVec.ofNat w 7 * c.b.setWidth w +
      BitVec.ofNat w 11 * c.a.setWidth w).toNat % 64

/-- R143, R146, R148: the lanes of ApplyDelta are independent, ColorEq is equality of all four channels, and the hashes of the decode-start colours. -/
def Obligations.ColourLanesEqualityAndInitialHashes : Prop :=
  (∀ (c : Color) (dr dg db : Int),
    applyDelta c dr dg db = { r := add8 c.r dr, g := add8 c.g dg, b := add8 c.b db, a := c.a }) ∧
  (∀ c d : Color, colorEq c d = true ↔ c.r = d.r ∧ c.g = d.g ∧ c.b = d.b ∧ c.a = d.a) ∧
  (hash prevInit).val = 53 ∧ (hash cacheInit).val = 0 ∧
  ∀ i : Fin Config.cacheSlots, hash cacheInit = i ↔ i.val = 0

/-! ### The six opcodes: each completes, with the result its rule gives, and a step that fetches its bytes runs it -/

/-- R155, R81. -/
def Obligations.RgbSetsThreeChannelsAndKeepsAlpha : Prop :=
  ∀ (s : State) (r g b : Byte), s.RoomForPixel →
    ∃ t, exec (.rgb r g b) s = .next t ∧
      OpcodeResult s t { r := r, g := g, b := b, a := s.prev.a } s.run 4 ∧
      ∀ u, BlockTurn u s → FetchesAtCur s [0xFE, r, g, b] → step u = .next t

/-- R156, R82. -/
def Obligations.RgbaSetsAllFourChannels : Prop :=
  ∀ (s : State) (r g b a : Byte), s.RoomForPixel →
    ∃ t, exec (.rgba r g b a) s = .next t ∧
      OpcodeResult s t { r := r, g := g, b := b, a := a } s.run 5 ∧
      ∀ u, BlockTurn u s → FetchesAtCur s [0xFF, r, g, b, a] → step u = .next t

/-- R157, R83: all four channels come from slot `idx`, read before the cache update (R147). -/
def Obligations.IndexLoadsTheColourOfItsSlot : Prop :=
  ∀ (s : State) (idx : Fin Config.cacheSlots), s.RoomForPixel →
    ∃ t, exec (.index idx.val) s = .next t ∧
      OpcodeResult s t (s.slot idx) s.run 1 ∧
      ∀ u, BlockTurn u s → FetchesAtCur s [0b00#2 ++ BitVec.ofNat 6 idx.val] → step u = .next t

/-- R158, R84: R, G and B are the three 2-bit fields from high to low. -/
def Obligations.DiffAddsThreeBiasedDeltas : Prop :=
  ∀ (s : State) (R G B : BitVec 2), s.RoomForPixel →
    ∃ t, exec (.diff ((R.toNat : Int) - 2) ((G.toNat : Int) - 2) ((B.toNat : Int) - 2)) s = .next t ∧
      OpcodeResult s t
        { r := add8 s.prev.r ((R.toNat : Int) - 2), g := add8 s.prev.g ((G.toNat : Int) - 2),
          b := add8 s.prev.b ((B.toNat : Int) - 2), a := s.prev.a } s.run 1 ∧
      ∀ u, BlockTurn u s → FetchesAtCur s [0b01#2 ++ R ++ G ++ B] → step u = .next t

/-- R159, R85: G is b1[5:0], R and B the high and low nibble of b2; red and blue move by vg − 8 + nibble. -/
def Obligations.LumaAddsGreenDeltaToAllChannels : Prop :=
  ∀ (s : State) (G : BitVec 6) (R B : BitVec 4), s.RoomForPixel →
    ∃ t, exec (.luma ((G.toNat : Int) - 32) ((R.toNat : Int) - 8) ((B.toNat : Int) - 8)) s = .next t ∧
      OpcodeResult s t
        { r := add8 s.prev.r (((G.toNat : Int) - 32) - 8 + R.toNat), g := add8 s.prev.g ((G.toNat : Int) - 32),
          b := add8 s.prev.b (((G.toNat : Int) - 32) - 8 + B.toNat), a := s.prev.a } s.run 2 ∧
      ∀ u, BlockTurn u s → FetchesAtCur s [0b10#2 ++ G, R ++ B] → step u = .next t

/-- R160, R86: RUN takes the count, PREV stays. -/
def Obligations.RunStoresTheRepeatCount : Prop :=
  ∀ (s : State) (n : BitVec 6), n.toNat ≤ 61 → s.RoomForPixel →
    ∃ t, exec (.run n.toNat) s = .next t ∧
      OpcodeResult s t s.prev n 1 ∧
      ∀ u, BlockTurn u s → FetchesAtCur s [0b11#2 ++ n] → step u = .next t

/-! ### Frames of the opcodes -/

/-- R29, R37, R161: the registers no opcode writes, RUN outside RUN, PREV under RUN, and alpha under RGB, DIFF and LUMA. -/
def Obligations.OpcodesLeaveOtherRegistersUnchanged : Prop :=
  ∀ (i : Instr) (s t : State), exec i s = .next t →
    t.width = s.width ∧ t.height = s.height ∧ t.channels = s.channels ∧ t.colorspace = s.colorspace ∧ t.len = s.len ∧
    t.mode = s.mode ∧ t.valid = s.valid ∧ t.errcode = s.errcode ∧ t.outBytes = s.outBytes ∧
    t.hostMoves = s.hostMoves ∧ t.hostData = s.hostData ∧ t.draws = s.draws ∧
    (i.opcode ≠ .run → t.run = s.run) ∧ (i.opcode = .run → t.prev = s.prev) ∧
    (i.opcode = .rgb ∨ i.opcode = .diff ∨ i.opcode = .luma → t.prev.a = s.prev.a)

/-- R125, R147: every opcode writes slot Hash(PREV) of its new PREV, and no other slot. -/
def Obligations.OpcodesWriteExactlyOneCacheSlot : Prop :=
  ∀ (i : Instr) (s t : State), exec i s = .next t →
    t.slot (hash t.prev) = t.prev ∧ ∀ j, j ≠ hash t.prev → t.slot j = s.slot j

/-- R52, R55, R127: an opcode stores r, g, b (and a when CHANNELS = 4) of its new PREV at PIX × CHANNELS of OUT, and every other byte of OUT
and every byte of IN reads as before. -/
def Obligations.OpcodesStoreOnlyTheirPixelSlot : Prop :=
  ∀ (i : Instr) (s t : State), exec i s = .next t →
    (∀ a, a < s.pix.toNat * s.channels.toNat ∨ s.pix.toNat * s.channels.toNat + s.emitCount ≤ a →
      t.outMem.read a = s.outMem.read a) ∧
    (s.outMem.wf = true → t.outMem.bytes (s.pix.toNat * s.channels.toNat) s.emitCount = colorBytes s.channels t.prev) ∧
    ∀ a, t.inMem.read a = s.inMem.read a

/-- R52, R187: without room for the pixel, every opcode and every pixel step is the fault OutOverflow. -/
def Obligations.NoRoomInOutIsOutOverflow : Prop :=
  ∀ s : State, ¬ s.RoomForPixel →
    (∀ i, exec i s = .fault .outOverflow) ∧
    ∀ u, BlockTurn u s → s.seq = .pixels → step u = .fault .outOverflow

/-! ### The pixel step -/

/-- R123: in PIXELS with no run pending and the cursor before LEN − 8, a step of the block is exec of the instruction whose encoding lies at CUR. -/
def Obligations.StepExecutesTheInstructionAtCur : Prop :=
  ∀ (u s : State) (i : Instr), BlockTurn u s → i.wellFormed = true → FetchesAtCur s (encode i) → step u = exec i s

/-- R122: with a run pending the step decrements RUN and repeats PREV; nothing depends on the cursor, no register but RUN and PIX (and STATE on
the last pixel) changes. -/
def Obligations.RunContinuationRepeatsThePixel : Prop :=
  ∀ u s : State, BlockTurn u s → s.seq = .pixels → s.run ≠ 0 → s.RoomForPixel → s.outMem.wf = true →
    ∃ t, step u = .next t ∧ t.run.toNat = s.run.toNat - 1 ∧ t.prev = s.prev ∧ t.cur = s.cur ∧ t.cache = s.cache ∧
      t.pix = s.pix + 1 ∧ t.inMem = s.inMem ∧ t.valid = s.valid ∧ t.errcode = s.errcode ∧
      t.outMem.bytes (s.pix.toNat * s.channels.toNat) s.emitCount = colorBytes s.channels s.prev

/-- R126: with no run pending and the cursor at or past LEN − 8 the step repeats PREV and changes no datapath register. -/
def Obligations.TailFillRepeatsThePixel : Prop :=
  ∀ u s : State, BlockTurn u s → s.seq = .pixels → s.run = 0 → s.len.toNat ≤ s.cur.toNat + 8 → s.RoomForPixel →
    s.outMem.wf = true →
    ∃ t, step u = .next t ∧ t.run = s.run ∧ t.prev = s.prev ∧ t.cur = s.cur ∧ t.cache = s.cache ∧
      t.pix = s.pix + 1 ∧ t.inMem = s.inMem ∧ t.valid = s.valid ∧ t.errcode = s.errcode ∧
      t.outMem.bytes (s.pix.toNat * s.channels.toNat) s.emitCount = colorBytes s.channels s.prev

/-- R28, R31, R120, R128, R185: a pixel step adds one to PIX, ends in DONE exactly when PIX reaches NPIX, raises irq_done exactly then, and
never reports an error. -/
def Obligations.PixelStepCompletesAtTheLastPixel : Prop :=
  ∀ u s t : State, BlockTurn u s → s.seq = .pixels → step u = .next t →
    t.pix = s.pix + 1 ∧ (t.seq = .done ↔ t.pix.toNat = s.npix) ∧ (t.seq ≠ .done → t.seq = .pixels) ∧
    (t.irqDone = true ↔ t.pix.toNat = s.npix) ∧ t.errcode = s.errcode ∧ t.valid = s.valid ∧
    t.width = s.width ∧ t.height = s.height ∧ t.channels = s.channels ∧ t.colorspace = s.colorspace

/-- R127: every pixel step, whichever its branch, writes the PREV its branch leaves into the current pixel slot, r, g, b and, when CHANNELS = 4, a,
and no other byte of OUT. -/
def Obligations.EveryPixelStepEmitsPrev : Prop :=
  ∀ u s t : State, BlockTurn u s → s.seq = .pixels → s.outMem.wf = true → step u = .next t →
    t.outMem.bytes (s.pix.toNat * s.channels.toNat) s.emitCount = colorBytes s.channels t.prev ∧
    ∀ a, a < s.pix.toNat * s.channels.toNat ∨ s.pix.toNat * s.channels.toNat + s.emitCount ≤ a →
      t.outMem.read a = s.outMem.read a

/-- R62: while PIXELS, no step of any kind (block, host or reset) changes an OUT byte below PIX × CHANNELS: the emitted prefix is final. -/
def Obligations.EmittedPixelsAreFinal : Prop :=
  ∀ u t : State, u.seq = .pixels → step u = .next t →
    ∀ a < u.pix.toNat * u.channels.toNat, t.outMem.read a = u.outMem.read a

/-- R125, R157, R205: an INDEX of the slot the previous opcode wrote gives that colour back, and its write-back leaves the whole cache as it is. -/
def Obligations.IndexOfTheSlotJustWritten : Prop :=
  ∀ (i : Instr) (s t v : State), exec i s = .next t → exec (.index (hash t.prev).val) t = .next v →
    v.prev = t.prev ∧ v.cache = t.cache

/-- 90_conflicts.md C3, R121, R125, R157: an INDEX of a slot that still holds CACHE_INIT gives {0,0,0,0} and writes it to slot 0, whatever
stood there, and to no other slot. -/
def Obligations.IndexOfAnUnwrittenSlotWritesSlotZero : Prop :=
  ∀ (s t : State) (idx : Fin Config.cacheSlots), s.slot idx = cacheInit → exec (.index idx.val) s = .next t →
    t.prev = { r := 0, g := 0, b := 0, a := 0 } ∧ t.slot 0 = { r := 0, g := 0, b := 0, a := 0 } ∧
      ∀ j, j ≠ 0 → t.slot j = s.slot j

/-! ### Whole decodes -/

/-- R132: a RUN with count n fetched at pixel p, with p + n < NPIX, gives n + 1 pixels of the colour PREV had; the next byte is fetched after
them, one byte on. -/
def Obligations.RunYieldsCountPlusOnePixels : Prop :=
  ∀ (s : State) (n : BitVec 6), s.Inv → s.hostMoves = [] → n.toNat ≤ 61 → FetchesAtCur s [0b11#2 ++ n] →
    s.pix.toNat + n.toNat < s.npix → s.outLen ≤ s.outBytes →
    ∃ t, runSteps (n.toNat + 1) s = .next t ∧ t.prev = s.prev ∧ t.run = 0 ∧ t.cur = s.cur + 1 ∧
      t.pix.toNat = s.pix.toNat + n.toNat + 1 ∧ t.channels = s.channels ∧
      (t.seq = if s.pix.toNat + n.toNat + 1 = s.npix then .done else .pixels) ∧
      ∀ p, s.pix.toNat ≤ p → p ≤ s.pix.toNat + n.toNat → t.outPixel p = colorBytes s.channels s.prev

/-- R126: once the stream is exhausted with no run pending, every remaining pixel is PREV, and the decode ends in DONE with a full image. -/
def Obligations.TailFillFillsTheRestOfTheImage : Prop :=
  ∀ s : State, s.Inv → s.hostMoves = [] → s.seq = .pixels → s.run = 0 → s.len.toNat ≤ s.cur.toNat + 8 →
    s.outLen ≤ s.outBytes →
    ∃ t, runSteps (s.npix - s.pix.toNat) s = .next t ∧ t.seq = .done ∧ t.pix.toNat = s.npix ∧ t.errcode = .none ∧
      t.prev = s.prev ∧ t.run = s.run ∧ t.cur = s.cur ∧ t.cache = s.cache ∧
      ∀ p, s.pix.toNat ≤ p → p < s.npix → t.outPixel p = colorBytes s.channels s.prev

/-- R128, R185, R207: a decode under way with room in OUT reaches DONE after exactly the pixel steps that are left, and is in PIXELS with PIX
counting up until then, whatever the stream holds. -/
def Obligations.PixelStageReachesDone : Prop :=
  ∀ s : State, s.Inv → s.hostMoves = [] → s.seq = .pixels → s.outLen ≤ s.outBytes →
    (∃ t, runSteps (s.npix - s.pix.toNat) s = .next t ∧ t.seq = .done ∧ t.pix.toNat = s.npix ∧ t.irqDone = true ∧
      t.errcode = .none ∧ t.valid = true ∧ t.width = s.width ∧ t.height = s.height ∧ t.channels = s.channels) ∧
    ∀ k < s.npix - s.pix.toNat, ∃ t, runSteps k s = .next t ∧ t.seq = .pixels ∧ t.pix.toNat = s.pix.toNat + k

/-- R207, R208: an accepted command reaches DONE or FAIL within 400,000,000 steps, given the 1,599,999,996 bytes of OUT that R202 names. -/
def Obligations.EveryCommandTerminates : Prop :=
  ∀ s : State, s.Inv → s.hostMoves = [] → s.seq = .header → 1599999996 ≤ s.outBytes →
    ∃ k ≤ 400000000, ∃ t, runSteps k s = .next t ∧ (t.seq = .done ∨ t.seq = .fail)

/-- R131, R133: what a command gives after its header step, at every number of steps, is a function of IN[0..LEN−1], LEN and the command alone:
two machines that agree on these, whatever else their registers, OUT contents and draws hold, agree on STATE, ERRCODE, VALID and PIX, and
unless they FAIL on the header registers and on every emitted byte. -/
def Obligations.ResultDependsOnTheInputAlone : Prop :=
  ∀ (s s' : State) (k : Nat) (t : State), s.Inv → s'.Inv → s.hostMoves = [] → s'.hostMoves = [] → s.seq = .header →
    s'.seq = .header → SameInput s s' → runSteps (k + 1) s = .next t →
    ∃ t', runSteps (k + 1) s' = .next t' ∧ t'.seq = t.seq ∧ t'.errcode = t.errcode ∧ t'.valid = t.valid ∧ t'.pix = t.pix ∧
      (t.seq ≠ .fail → t'.width = t.width ∧ t'.height = t.height ∧ t'.channels = t.channels ∧
        t'.colorspace = t.colorspace ∧ ∀ a < t.pix.toNat * t.channels.toNat, t'.outMem.read a = t.outMem.read a)

/-! ### The header stage -/

/-- R101 to R108, R180, R181: after the command step (ERRCODE 0), the header step answers, and the first failing check in the order of R181
decides ERRCODE; STATE is FAIL exactly when some check fails. -/
def Obligations.HeaderStepReportsTheFirstFailingCheck : Prop :=
  ∀ u s : State, BlockTurn u s → s.seq = .header → s.errcode = .none →
    ∃ t, step u = .next t ∧ (t.seq = .fail ↔ t.errcode ≠ .none) ∧
      t.errcode =
        if s.len.toNat < 14 then .bufferTooShort
        else if s.inMem.bytes 0 4 ≠ [0x71, 0x6F, 0x69, 0x66] then .badMagic
        else if beValue (s.inMem.bytes 4 4) = 0 ∨ beValue (s.inMem.bytes 8 4) = 0 then .badDimensions
        else if ¬ beValue (s.inMem.bytes 8 4) < 400000000 / beValue (s.inMem.bytes 4 4) then .badDimensions
        else if s.inMem.read 12 ≠ 3 ∧ s.inMem.read 12 ≠ 4 then .badChannels
        else if s.inMem.read 13 ≠ 0 ∧ s.inMem.read 13 ≠ 1 then .badColorspace
        else .none

/-- R26, R53, R54, R102, R108, R121: a passing header loads the big-endian fields and sets VALID; a VALIDATE is then DONE, a DECODE is in PIXELS with
the decode-start values. -/
def Obligations.PassingHeaderLoadsTheRegisters : Prop :=
  ∀ (u s : State) (w h : Word) (ch cs : Byte), BlockTurn u s → s.seq = .header → 14 ≤ s.len.toNat →
    s.inMem.bytes 0 14 = headerDirective w h ch cs → w ≠ 0 → h ≠ 0 → h.toNat < 400000000 / w.toNat →
    (ch = 3 ∨ ch = 4) → (cs = 0 ∨ cs = 1) →
    ∃ t, step u = .next t ∧ t.width = w ∧ t.height = h ∧ t.channels = ch ∧ t.colorspace = cs ∧ t.valid = true ∧
      t.errcode = s.errcode ∧ t.pix = s.pix ∧ t.len = s.len ∧ t.mode = s.mode ∧ t.inMem = s.inMem ∧ t.outMem = s.outMem ∧
      (s.mode = .validate → t.seq = .done ∧ t.prev = s.prev ∧ t.run = s.run ∧ t.cur = s.cur ∧ t.cache = s.cache) ∧
      (s.mode = .decode → t.seq = .pixels ∧ t.prev = { r := 0, g := 0, b := 0, a := 255 } ∧ t.run = 0 ∧ t.cur = 14 ∧
        ∀ i, t.slot i = { r := 0, g := 0, b := 0, a := 0 })

/-- R182, R188: entering FAIL writes ERRCODE, STATE and the header registers and nothing else; irq_done becomes 1. -/
def Obligations.ErrorEntryChangesOnlyStatusAndHeader : Prop :=
  ∀ u s t : State, BlockTurn u s → s.seq = .header → step u = .next t → t.seq = .fail →
    t.errcode ≠ .none ∧ t.irqDone = true ∧ t.valid = s.valid ∧ t.mode = s.mode ∧ t.pix = s.pix ∧ t.len = s.len ∧
    t.prev = s.prev ∧ t.run = s.run ∧ t.cur = s.cur ∧ t.cache = s.cache ∧ t.inMem = s.inMem ∧ t.outMem = s.outMem

/-- R111: after the command step, for the same IN and LEN, VALIDATE passes exactly when DECODE's header step passes, with the same ERRCODE and
VALID; it ends in DONE with VALID = 1 or in FAIL with VALID = 0 and an ERRCODE, and never writes PREV, RUN, CUR, CACHE or OUT. -/
def Obligations.ValidateAgreesWithDecode : Prop :=
  ∀ s : State, s.hostMoves = [] → s.seq = .header → s.valid = false → s.errcode = .none →
    ∃ d v, step { s with mode := .decode } = .next d ∧ step { s with mode := .validate } = .next v ∧
      d.errcode = v.errcode ∧ d.valid = v.valid ∧ (d.seq = .fail ↔ v.seq = .fail) ∧
      (d.seq = .pixels ↔ v.seq = .done) ∧
      ((v.seq = .done ∧ v.valid = true ∧ v.errcode = .none) ∨ (v.seq = .fail ∧ v.valid = false ∧ v.errcode ≠ .none)) ∧
      v.prev = s.prev ∧ v.run = s.run ∧ v.cur = s.cur ∧ v.cache = s.cache ∧ v.outMem = s.outMem

/-- R110: the bounds a passing header gives; q of the rule is 400000000 / W. -/
def Obligations.PassingHeaderBoundsTheImage : Prop :=
  ∀ s : State, s.HeaderGood →
    s.height.toNat ≤ 400000000 / s.width.toNat - 1 ∧
    s.npix ≤ s.width.toNat * (400000000 / s.width.toNat) - s.width.toNat ∧
    s.width.toNat * (400000000 / s.width.toNat) - s.width.toNat ≤ 400000000 - s.width.toNat ∧ s.npix ≤ 399999999 ∧ 1 ≤ s.width.toNat ∧ s.width.toNat ≤ 200000000 ∧
    1 ≤ s.height.toNat ∧ s.height.toNat ≤ 399999999 ∧ s.outLen ≤ 1599999996

/-- R104, R105 (90_conflicts.md C1): the pass condition in its exact division order, the error of a header that fails it (BadDimensions, code 3),
and the corner cases. -/
def Obligations.PixelBoundAndItsBoundaryCases : Prop :=
  (∀ w h, dimensionsOk w h = true ↔ w ≠ 0 ∧ h ≠ 0 ∧ h < 400000000 / w) ∧
  (∀ f : HeaderFields, f.magic = 0x716F6966 → dimensionsOk f.w f.h = false → headerError f = .badDimensions) ∧
  ErrCode.badDimensions.code = 3 ∧
  (∀ w, 400000000 < w → 400000000 / w = 0) ∧ (∀ w, 200000000 < w → w ≤ 400000000 → 400000000 / w = 1) ∧
  (∀ w h, 200000000 < w → dimensionsOk w h = false) ∧
  (∀ h, dimensionsOk 1 h = true ↔ 1 ≤ h ∧ h ≤ 399999999) ∧
  dimensionsOk 3 133333332 = true ∧ dimensionsOk 3 133333333 = false ∧ dimensionsOk 20000 20000 = false ∧
  dimensionsOk 20000 19999 = true ∧ dimensionsOk 200000000 1 = true

/-! ### The host's side -/

/-- R34, R183: a whole-word write of 1 or 2 to CMD when not BUSY is the command step; it writes MODE, VALID, ERRCODE, PIX and STATE, and irq_done
becomes 0; nothing else changes. -/
def Obligations.CommandStepStartsTheHeaderStage : Prop :=
  ∀ (u s : State) (v : Word), HostTurn (.regWrite { offset := 0x00, size := 4 } v) u s → s.busy = false → (v = 1 ∨ v = 2) →
    ∃ t, step u = .next t ∧ t.seq = .header ∧ t.mode = (if v = 1 then .decode else .validate) ∧ t.valid = false ∧
      t.errcode = .none ∧ t.pix = 0 ∧ t.irqDone = false ∧
      t = { s with mode := t.mode, valid := t.valid, errcode := t.errcode, pix := t.pix, seq := t.seq }

/-- R34: a CMD write of another value, or while BUSY, changes nothing. -/
def Obligations.OtherCommandWritesAreIgnored : Prop :=
  ∀ (u s : State) (v : Word), HostTurn (.regWrite { offset := 0x00, size := 4 } v) u s →
    (s.seq = .header ∨ s.seq = .pixels ∨ (v ≠ 1 ∧ v ≠ 2)) → step u = .next s

/-- R30, R36: a LEN write takes effect when not BUSY and is ignored while BUSY; a write to any other offset but CMD changes nothing. -/
def Obligations.RegisterWritesOutsideCmd : Prop :=
  ∀ (u s : State) (off : BitVec 6) (v : Word), HostTurn (.regWrite { offset := off, size := 4 } v) u s → off.toNat % 4 = 0 →
    (off = 0x0C → s.busy = false → step u = .next { s with len := v }) ∧
    (off = 0x0C → s.busy = true → step u = .next s) ∧
    (off ≠ 0x00 → off ≠ 0x0C → step u = .next s)

/-- R33, R35, R36: what each offset of the window reads as, and that a read changes only the word the host received. -/
def Obligations.RegisterReadsReturnTheMap : Prop :=
  ∀ (u s : State) (off : BitVec 6), HostTurn (.regRead { offset := off, size := 4 }) u s → off.toNat % 4 = 0 →
    ∃ d : Word, step u = .next { s with hostData := d } ∧
      (off = 0x00 → d = 0) ∧
      (off = 0x04 → d.toNat =
        (match s.seq with | .idle => 0 | .header => 1 | .pixels => 2 | .done => 3 | .fail => 4) +
        (if s.valid = true then 8 else 0) + (if s.seq = .header ∨ s.seq = .pixels then 16 else 0) +
        (if s.mode = .validate then 32 else 0)) ∧
      (off = 0x08 → d.toNat =
        (match s.errcode with
          | .none => 0 | .bufferTooShort => 1 | .badMagic => 2 | .badDimensions => 3 | .badChannels => 4 | .badColorspace => 5)) ∧
      (off = 0x0C → d = s.len) ∧ (off = 0x10 → d = s.width) ∧ (off = 0x14 → d = s.height) ∧
      (off = 0x18 → d.toNat = s.channels.toNat) ∧ (off = 0x1C → d.toNat = s.colorspace.toNat) ∧ (off = 0x20 → d = s.pix) ∧
      (0x24 ≤ off.toNat → d = 0)

/-- R36: a sub-word or misaligned access of the window is refused, reads and writes alike. -/
def Obligations.SubWordAndMisalignedAccessesAreRefused : Prop :=
  ∀ (u s : State) (acc : RegAccess) (v : Word), (acc.size ≠ 4 ∨ acc.offset.toNat % 4 ≠ 0) →
    (HostTurn (.regWrite acc v) u s → step u = .refused .hostAccessShape) ∧
    (HostTurn (.regRead acc) u s → step u = .refused .hostAccessShape)

/-- R50, R202, R203: a host write of IN or OUT is refused while BUSY; otherwise that byte reads as written, every other byte as before, and nothing
else of the state changes. Three clauses are the model's readings, no rule's words: a write of IN is taken at every 32-bit address (log
entry 10, DEDUCED); a host write of OUT at or past OUT_BYTES is OutOverflow (log entry 8, DEDUCED: R52 is of the block's own MemWrite, and
R187's "An OUT write" is read to cover the host's); the refusal while BUSY holds at every OUT address, also at those the decode will not
write (log entry 12, DEDUCED). -/
def Obligations.HostMemoryWrites : Prop :=
  ∀ (u s : State) (a : Word) (v : Byte),
    (HostTurn (.inWrite a v) u s →
      (s.busy = true → step u = .refused .hostWriteWhileBusy) ∧
      (s.busy = false → step u = .next { s with inMem := s.inMem.write a.toNat v } ∧
        (s.inMem.wf = true → (s.inMem.write a.toNat v).read a.toNat = v) ∧
        ∀ b, b ≠ a.toNat → (s.inMem.write a.toNat v).read b = s.inMem.read b)) ∧
    (HostTurn (.outWrite a v) u s →
      (s.busy = true → step u = .refused .hostWriteWhileBusy) ∧
      (s.busy = false → a.toNat < s.outBytes → step u = .next { s with outMem := s.outMem.write a.toNat v } ∧
        (s.outMem.wf = true → (s.outMem.write a.toNat v).read a.toNat = v) ∧
        ∀ b, b ≠ a.toNat → (s.outMem.write a.toNat v).read b = s.outMem.read b) ∧
      (s.busy = false → s.outBytes ≤ a.toNat → step u = .fault .outOverflow))

/-- R20, R31, R50, R188: reads of OUT and of irq_done return the byte and the level, and change nothing else but the model's own record of the
word received (log entry 2, DESIGN CHOICE). That a read of OUT gives the byte that stands there in every STATE, while BUSY also at addresses
at or past PIXCOUNT × CHANNELS, is the model's reading (log entry 12, DEDUCED from R56: "bytes not yet reached in a decode that is in
progress" keep their earlier content); R204 gives the host no right to assume anything of those bytes. -/
def Obligations.HostReadsOfOutAndIrq : Prop :=
  ∀ (u s : State) (a : Word),
    (HostTurn (.outRead a) u s → a.toNat < s.outBytes →
      ∃ d : Word, step u = .next { s with hostData := d } ∧ d.toNat = (s.outMem.read a.toNat).toNat) ∧
    (HostTurn .irqSample u s →
      ∃ d : Word, step u = .next { s with hostData := d } ∧ d.toNat = if s.seq = .done ∨ s.seq = .fail then 1 else 0)

/-- R28, R33, R200: reset, in any STATE, sets every register that has a reset value to it, so that every word of the host's window reads 0, and
leaves IN and OUT as they are. PREV, RUN, CUR and CACHE
are free draws: nothing is said of them. -/
def Obligations.ResetEventClearsTheRegisters : Prop :=
  ∀ u s : State, HostTurn .reset u s →
    ∃ t, step u = .next t ∧ t.seq = .idle ∧ t.mode = .decode ∧ t.valid = false ∧ t.errcode = .none ∧ t.pix = 0 ∧ t.len = 0 ∧
      t.width = 0 ∧ t.height = 0 ∧ t.channels = 0 ∧ t.colorspace = 0 ∧ t.irqDone = false ∧ t.busy = false ∧
      (∀ off, t.readReg off = 0) ∧ t.inMem = s.inMem ∧ t.outMem = s.outMem ∧ t.outBytes = s.outBytes ∧ t.hostMoves = s.hostMoves ∧ t.hostData = s.hostData

/-- R20, R33, R200: the values the spec gives for reset. -/
def Obligations.ResetStateHasTheSpecsValues : Prop :=
  State.reset.seq = .idle ∧ State.reset.mode = .decode ∧ State.reset.valid = false ∧ State.reset.errcode = .none ∧
  State.reset.pix = 0 ∧ State.reset.width = 0 ∧ State.reset.height = 0 ∧ State.reset.channels = 0 ∧
  State.reset.colorspace = 0 ∧ State.reset.len = 0 ∧ State.reset.statusWord = 0 ∧ State.reset.irqDone = false

/-- R184, R194: IDLE, DONE and FAIL are quiescent: no step of the block changes anything there. That the model's step then answers the same
state is the model's form (log entry 7). -/
def Obligations.QuiescentStatesWaitForTheHost : Prop :=
  ∀ u s : State, BlockTurn u s → (s.seq = .idle ∨ s.seq = .done ∨ s.seq = .fail) → step u = .next s

/-! ### Rules of the whole machine -/

/-- The reset state meets the invariant and the cache invariant. -/
def Obligations.ResetStateMeetsTheInvariants : Prop := State.reset.Inv ∧ State.reset.CacheInv

/-- R22 to R29, R37, R58, R110, R128, R182: every step, of the block, the host or the reset input, keeps the machine's invariant. -/
def Obligations.EveryStepKeepsTheInvariant : Prop :=
  ∀ u t : State, u.Inv → step u = .next t → t.Inv

/-- 90_conflicts.md C3, R125: every step keeps the cache invariant: during a decode each slot holds CACHE_INIT or a colour that hashes to it. -/
def Obligations.EveryStepKeepsTheCacheInvariant : Prop :=
  ∀ u t : State, u.CacheInv → step u = .next t → t.CacheInv

/-- R51, R58, R88, R186: no step at all, from any state, answers InReadOutOfBounds or UnmatchedOpcode. -/
def Obligations.ImpossibleFaultsAreUnreachable : Prop :=
  ∀ (u : State) (f : Fault), step u = .fault f → impossibleFault f = false

/-- R28: STATE changes only along the transitions of R28, each with its event. -/
def Obligations.StateChangesOnlyAlongTheTable : Prop :=
  ∀ u t : State, step u = .next t → t.seq ≠ u.seq →
    (t.seq = .idle ∧ ∃ ms, u.hostMoves = .reset :: ms) ∨
    (t.seq = .header ∧ u.busy = false ∧
      ∃ acc v ms, u.hostMoves = .regWrite acc v :: ms ∧ acc.offset = 0x00 ∧ (v = 1 ∨ v = 2)) ∨
    (∃ s, BlockTurn u s ∧
      ((u.seq = .header ∧ t.seq = .fail ∧ t.errcode ≠ .none) ∨
       (u.seq = .header ∧ t.seq = .done ∧ u.mode = .validate ∧ t.valid = true) ∨
       (u.seq = .header ∧ t.seq = .pixels ∧ u.mode = .decode ∧ t.valid = true) ∨
       (u.seq = .pixels ∧ t.seq = .done ∧ t.pix.toNat = u.npix)))

/-- R100: a header step always leaves HEADER. -/
def Obligations.HeaderStepLeavesHeader : Prop :=
  ∀ u s : State, BlockTurn u s → s.seq = .header → ∃ t, step u = .next t ∧ t.seq ≠ .header

/-- R23, R58, R130: in a decode the cursor never decreases, moves by the length of one opcode or not at all, and stays at most LEN − 4 once it
has moved. -/
def Obligations.CursorOnlyMovesForward : Prop :=
  ∀ u s t : State, BlockTurn u s → s.seq = .pixels → step u = .next t →
    (t.cur = s.cur ∧ (s.run ≠ 0 ∨ s.len.toNat ≤ s.cur.toNat + 8)) ∨
    (s.run = 0 ∧ t.cur.toNat = s.cur.toNat + opLength (classify (s.inMem.read s.cur.toNat)) ∧ t.cur.toNat + 4 ≤ t.len.toNat)

/-- R30, R37, R51: a step of the block never writes IN, LEN, MODE or the size of OUT, and takes nothing from the host's schedule. -/
def Obligations.BlockNeverWritesInOrLen : Prop :=
  ∀ u s t : State, BlockTurn u s → step u = .next t →
    t.inMem = s.inMem ∧ t.len = s.len ∧ t.mode = s.mode ∧ t.outBytes = s.outBytes ∧ t.hostMoves = s.hostMoves ∧
    t.hostData = s.hostData

/-- R56, R65, R111, R182: outside the pixel stage a step of the block writes no byte of OUT, and only a DECODE header that passes writes the datapath. -/
def Obligations.HeaderStepWritesNoOut : Prop :=
  ∀ u s t : State, BlockTurn u s → s.seq ≠ .pixels → step u = .next t →
    t.outMem = s.outMem ∧ t.pix = s.pix ∧
    (t.seq ≠ .pixels → t.prev = s.prev ∧ t.run = s.run ∧ t.cur = s.cur ∧ t.cache = s.cache)

/-- R36, R37, R193: a move of the host never touches the datapath, the header registers or the draws, and while BUSY it changes nothing of the
block at all: only the word the host received. -/
def Obligations.HostMovesLeaveTheDatapathAlone : Prop :=
  ∀ (m : HostMove) (u s t : State), m ≠ .wait → m ≠ .reset → HostTurn m u s → step u = .next t →
    t.prev = s.prev ∧ t.run = s.run ∧ t.cur = s.cur ∧ t.cache = s.cache ∧ t.width = s.width ∧ t.height = s.height ∧
    t.channels = s.channels ∧ t.colorspace = s.colorspace ∧ t.outBytes = s.outBytes ∧ t.hostMoves = s.hostMoves ∧
    t.draws = s.draws ∧ (s.busy = true → t = { s with hostData := t.hostData })
end

