-- ==== Sys2Proof/Laws/Color.lean ====
section
/-! SUPPORT. The laws of the colour arithmetic unit and of the cache ports. -/

namespace Sys2Proof.Machine

theorem add8_toInt_emod (x : Byte) (d : Int) : ((add8 x d).toNat : Int) = ((x.toNat : Int) + d) % 256 := by
  simp only [add8, BitVec.toNat_ofInt]
  omega

theorem sub8_toInt_emod (x : Byte) (d : Int) : ((sub8 x d).toNat : Int) = ((x.toNat : Int) - d) % 256 := by
  simp only [sub8, BitVec.toNat_ofInt]
  omega

theorem byte_ext {x y : Byte} (h : (x.toNat : Int) = y.toNat) : x = y :=
  BitVec.eq_of_toNat_eq (by omega)

theorem sub8_eq_add8_neg (x : Byte) (d : Int) : sub8 x d = add8 x (-d) := by
  apply byte_ext; rw [add8_toInt_emod, sub8_toInt_emod]; congr 1

@[simp] theorem add8_zero (x : Byte) : add8 x 0 = x := by
  apply byte_ext; rw [add8_toInt_emod]; have := x.isLt; omega

theorem hash_val (c : Color) :
    (hash c).val = (3 * c.r.toNat + 5 * c.g.toNat + 7 * c.b.toNat + 11 * c.a.toNat) % 64 := rfl

@[simp] theorem applyDelta_a (c : Color) (dr dg db : Int) : (applyDelta c dr dg db).a = c.a := rfl

@[simp] theorem literalRgb_a (c : Color) (r g b : Byte) : (literalRgb c r g b).a = c.a := rfl

@[simp] theorem slot_setSlot_same (s : State) (i : Fin Config.cacheSlots) (c : Color) : (s.setSlot i c).slot i = c := by
  simp [State.slot, State.setSlot]

theorem slot_setSlot_other (s : State) {i j : Fin Config.cacheSlots} (h : j ≠ i) (c : Color) :
    (s.setSlot i c).slot j = s.slot j := by
  have : i.val ≠ j.val := fun e => h (Fin.ext e.symm)
  simp [State.slot, State.setSlot, Vector.getElem_set_ne _ _ this]

@[simp] theorem slot_cacheUpdate_hash (s : State) : s.cacheUpdate.slot (hash s.prev) = s.prev := slot_setSlot_same ..

theorem slot_cacheUpdate_other (s : State) {j : Fin Config.cacheSlots} (h : j ≠ hash s.prev) :
    s.cacheUpdate.slot j = s.slot j := slot_setSlot_other s h _

@[simp] theorem slot_decodeStart (s : State) (j : Fin Config.cacheSlots) : s.decodeStart.slot j = cacheInit := by
  simp [State.slot, State.decodeStart]

@[simp] theorem slot_setPrev (s : State) (c : Color) (j : Fin Config.cacheSlots) : (s.setPrev c).slot j = s.slot j := rfl
@[simp] theorem slot_setRun (s : State) (n : BitVec 6) (j : Fin Config.cacheSlots) : (s.setRun n).slot j = s.slot j := rfl
@[simp] theorem slot_advanceCur (s : State) (k : Nat) (j : Fin Config.cacheSlots) : (s.advanceCur k).slot j = s.slot j := rfl

@[simp] theorem indexSlot_val (n : Nat) : (indexSlot n).val = n % 64 := rfl

theorem indexSlot_fin (i : Fin Config.cacheSlots) : indexSlot i.val = i :=
  Fin.ext (Nat.mod_eq_of_lt i.isLt)

end Sys2Proof.Machine
end

