-- ==== Sys2Proof/Laws/Decode.lean ====
section
/-! SUPPORT. Small lemmas of the decoder and the encoder: the class of an encoded byte, and the fields of an encoded byte. -/

namespace Sys2Proof

theorem bitField_lt (b : Byte) (lo w : Nat) : bitField b lo w < 2 ^ w := Nat.mod_lt _ (Nat.two_pow_pos w)

theorem encByte_toNat {n : Int} (h0 : 0 ≤ n) (h1 : n < 256) : ((encByte n).toNat : Int) = n := by
  simp only [encByte, BitVec.toNat_ofInt]; omega

/-- The class of a byte by its value: the ranges of R80 and R86. -/
theorem classify_eq (b : Byte) :
    classify b = if b.toNat < 0x40 then .index else if b.toNat < 0x80 then .diff else if b.toNat < 0xC0 then .luma
      else if b.toNat < 0xFE then .run else if b.toNat < 0xFF then .rgb else .rgba := by
  revert b; decide +revert

theorem opLength_pos (op : Opcode) : 1 ≤ opLength op := by cases op <;> decide

theorem opLength_le (op : Opcode) : opLength op ≤ 5 := by cases op <;> decide

section
variable {b1 : Byte}

theorem decode_rgb (h : classify b1 = .rgb) (r g b : Byte) (rest : List Byte) :
    decode (b1 :: r :: g :: b :: rest) = .ok (.rgb r g b) rest := by simp [decode, h]

theorem decode_rgba (h : classify b1 = .rgba) (r g b a : Byte) (rest : List Byte) :
    decode (b1 :: r :: g :: b :: a :: rest) = .ok (.rgba r g b a) rest := by simp [decode, h]

theorem decode_index (h : classify b1 = .index) (rest : List Byte) :
    decode (b1 :: rest) = .ok (.index (fieldIndex b1)) rest := by simp [decode, h]

theorem decode_diff (h : classify b1 = .diff) (rest : List Byte) :
    decode (b1 :: rest) = .ok (fieldDiff b1) rest := by simp [decode, h]

theorem decode_luma (h : classify b1 = .luma) (b2 : Byte) (rest : List Byte) :
    decode (b1 :: b2 :: rest) = .ok (fieldLuma b1 b2) rest := by simp [decode, h]

theorem decode_run (h : classify b1 = .run) (rest : List Byte) :
    decode (b1 :: rest) = .ok (.run (fieldRun b1)) rest := by simp [decode, h]

/-- A byte list as long as its opcode byte asks for decodes, with nothing left over. -/
theorem decode_of_length (data : List Byte) (h : data.length + 1 = opLength (classify b1)) :
    ∃ i, decode (b1 :: data) = .ok i [] := by
  cases hc : classify b1 <;> rw [hc] at h <;> simp only [opLength] at h
  · match data, h with
    | [r, g, b], _ => exact ⟨_, decode_rgb hc r g b []⟩
  · match data, h with
    | [r, g, b, a], _ => exact ⟨_, decode_rgba hc r g b a []⟩
  · match data, h with
    | [], _ => exact ⟨_, decode_index hc []⟩
  · match data, h with
    | [], _ => exact ⟨_, decode_diff hc []⟩
  · match data, h with
    | [b2], _ => exact ⟨_, decode_luma hc b2 []⟩
  · match data, h with
    | [], _ => exact ⟨_, decode_run hc []⟩

end

end Sys2Proof
end

