-- ==== Sys2Proof/Laws/Memory.lean ====
section
/-! SUPPORT. The laws of the byte spaces: reads after writes, the canonical form, and that canonical spaces with equal reads are equal. -/

namespace Sys2Proof.Machine

theorem Memory.wf_cons (k : Nat) (v : Byte) (m : Memory) :
    Memory.wf ((k, v) :: m) = true ↔ v ≠ Config.unlistedByte ∧ (∀ c ∈ m, k < c.1) ∧ Memory.wf m = true := by
  simp [Memory.wf, and_assoc]

theorem Memory.read_of_lt_all (m : Memory) (a : Nat) (h : ∀ c ∈ m, a < c.1) : m.read a = Config.unlistedByte := by
  induction m with
  | nil => rfl
  | cons c m ih =>
    obtain ⟨k, v⟩ := c
    have hk : a < k := h (k, v) (by simp)
    simp only [Memory.read, if_neg (Nat.ne_of_lt hk)]
    exact ih fun c hc => h c (by simp [hc])

theorem Memory.mem_write {m : Memory} {a : Nat} {v : Byte} {c : Host.Cell} (h : c ∈ m.write a v) : c.1 = a ∨ c ∈ m := by
  induction m with
  | nil => simp only [Memory.write] at h; split at h <;> simp_all
  | cons d m ih =>
    obtain ⟨k, w⟩ := d
    simp only [Memory.write] at h
    split at h
    · split at h
      · exact Or.inr h
      · rcases List.mem_cons.1 h with rfl | h
        · exact Or.inl rfl
        · exact Or.inr h
    · split at h
      · split at h
        · exact Or.inr (List.mem_cons_of_mem _ h)
        · rcases List.mem_cons.1 h with rfl | h
          · exact Or.inl rfl
          · exact Or.inr (List.mem_cons_of_mem _ h)
      · rcases List.mem_cons.1 h with rfl | h
        · exact Or.inr (by simp)
        · exact (ih h).imp id (List.mem_cons_of_mem _)

theorem Memory.wf_write {m : Memory} (h : m.wf = true) (a : Nat) (v : Byte) : (m.write a v).wf = true := by
  induction m with
  | nil => simp only [Memory.write]; split <;> simp_all [Memory.wf]
  | cons d m ih =>
    obtain ⟨k, w⟩ := d
    obtain ⟨hw, hlt, hm⟩ := (Memory.wf_cons k w m).1 h
    simp only [Memory.write]
    split
    · split
      · exact h
      · next hak hv =>
        refine (Memory.wf_cons _ _ _).2 ⟨hv, ?_, h⟩
        intro c hc
        rcases List.mem_cons.1 hc with rfl | hc
        · exact hak
        · exact Nat.lt_trans hak (hlt c hc)
    · split
      · next hak =>
        subst hak
        split
        · exact hm
        · next hv => exact (Memory.wf_cons _ _ _).2 ⟨hv, hlt, hm⟩
      · next hlt' hne =>
        refine (Memory.wf_cons _ _ _).2 ⟨hw, ?_, ih hm⟩
        intro c hc
        rcases Memory.mem_write hc with hc | hc
        · omega
        · exact hlt c hc

theorem Memory.read_write_same {m : Memory} (h : m.wf = true) (a : Nat) (v : Byte) : (m.write a v).read a = v := by
  induction m with
  | nil => simp only [Memory.write]; split <;> simp_all [Memory.read]
  | cons d m ih =>
    obtain ⟨k, w⟩ := d
    obtain ⟨hw, hlt, hm⟩ := (Memory.wf_cons k w m).1 h
    simp only [Memory.write]
    split
    · next hak =>
      split
      · next hv =>
        rw [hv]
        refine Memory.read_of_lt_all _ _ ?_
        intro c hc
        rcases List.mem_cons.1 hc with rfl | hc
        · exact hak
        · exact Nat.lt_trans hak (hlt c hc)
      · simp [Memory.read]
    · split
      · next hak =>
        subst hak
        split
        · next hv => rw [hv]; exact Memory.read_of_lt_all _ _ hlt
        · simp [Memory.read]
      · next hne => simp only [Memory.read, if_neg hne]; exact ih hm

theorem Memory.read_write_other (m : Memory) {a b : Nat} (hab : b ≠ a) (v : Byte) : (m.write a v).read b = m.read b := by
  induction m with
  | nil => simp only [Memory.write]; split <;> simp [Memory.read, hab]
  | cons d m ih =>
    obtain ⟨k, w⟩ := d
    simp only [Memory.write]
    split
    · split <;> simp [Memory.read, hab]
    · split
      · next hak =>
        subst hak
        split <;> simp [Memory.read, hab]
      · simp [Memory.read, ih]

/-- Canonical byte spaces that read alike everywhere are the same list. -/
theorem Memory.ext_read {m n : Memory} (hm : m.wf = true) (hn : n.wf = true) (h : ∀ a, m.read a = n.read a) : m = n := by
  induction m generalizing n with
  | nil =>
    cases n with
    | nil => rfl
    | cons d n =>
      obtain ⟨k, w⟩ := d
      have := h k
      simp [Memory.read] at this
      exact absurd this.symm ((Memory.wf_cons k w n).1 hn).1
  | cons d m ih =>
    obtain ⟨k, w⟩ := d
    obtain ⟨hw, hlt, hm'⟩ := (Memory.wf_cons k w m).1 hm
    cases n with
    | nil =>
      have := h k
      simp [Memory.read] at this
      exact absurd this hw
    | cons e n =>
      obtain ⟨j, x⟩ := e
      obtain ⟨hx, hlt2, hn'⟩ := (Memory.wf_cons j x n).1 hn
      have hkj : k = j := by
        rcases Nat.lt_trichotomy k j with hkj | hkj | hkj
        · have := h k
          rw [Memory.read_of_lt_all ((j, x) :: n) k] at this
          · simp [Memory.read] at this; exact absurd this hw
          · intro c hc
            rcases List.mem_cons.1 hc with rfl | hc
            · exact hkj
            · exact Nat.lt_trans hkj (hlt2 c hc)
        · exact hkj
        · have := h j
          rw [Memory.read_of_lt_all ((k, w) :: m) j] at this
          · simp [Memory.read] at this; exact absurd this.symm hx
          · intro c hc
            rcases List.mem_cons.1 hc with rfl | hc
            · exact hkj
            · exact Nat.lt_trans hkj (hlt c hc)
      subst hkj
      have hwx : w = x := by simpa [Memory.read] using h k
      subst hwx
      congr 1
      refine ih hm' hn' fun a => ?_
      by_cases hak : a = k
      · subst hak
        rw [Memory.read_of_lt_all m a hlt, Memory.read_of_lt_all n a hlt2]
      · simpa [Memory.read, hak] using h a

theorem Memory.wf_writeBytes {m : Memory} (h : m.wf = true) (a : Nat) (vs : List Byte) : (m.writeBytes a vs).wf = true := by
  induction vs generalizing m a with
  | nil => exact h
  | cons v vs ih => exact ih (Memory.wf_write h a v) (a + 1)

theorem Memory.mem_writeBytes {m : Memory} {a : Nat} {vs : List Byte} {c : Host.Cell} (h : c ∈ m.writeBytes a vs) :
    (a ≤ c.1 ∧ c.1 < a + vs.length) ∨ c ∈ m := by
  induction vs generalizing m a with
  | nil => exact Or.inr h
  | cons v vs ih =>
    rcases ih h with h | h
    · left; simp only [List.length_cons]; omega
    · rcases Memory.mem_write h with h | h
      · left; simp only [List.length_cons]; omega
      · exact Or.inr h

/-- Bytes outside the written range read as before. -/
theorem Memory.read_writeBytes_outside (m : Memory) (a : Nat) (vs : List Byte) (b : Nat) (h : b < a ∨ a + vs.length ≤ b) :
    (m.writeBytes a vs).read b = m.read b := by
  induction vs generalizing m a with
  | nil => rfl
  | cons v vs ih =>
    simp only [List.length_cons] at h
    rw [Memory.writeBytes, ih _ _ (by omega), Memory.read_write_other _ (by omega)]

/-- The written range reads as the bytes written. -/
theorem Memory.bytes_writeBytes {m : Memory} (h : m.wf = true) (a : Nat) (vs : List Byte) :
    (m.writeBytes a vs).bytes a vs.length = vs := by
  induction vs generalizing m a with
  | nil => rfl
  | cons v vs ih =>
    simp only [List.length_cons, Memory.bytes, Memory.writeBytes]
    rw [ih (Memory.wf_write h a v), Memory.read_writeBytes_outside _ _ _ _ (by omega), Memory.read_write_same h]

@[simp] theorem Memory.length_bytes (m : Memory) (a n : Nat) : (m.bytes a n).length = n := by
  induction n generalizing a with
  | zero => rfl
  | succ n ih => simp [Memory.bytes, ih]

theorem Memory.bytes_congr {m n : Memory} {a k : Nat} (h : ∀ b, a ≤ b → b < a + k → m.read b = n.read b) :
    m.bytes a k = n.bytes a k := by
  induction k generalizing a with
  | zero => rfl
  | succ k ih =>
    simp only [Memory.bytes]
    rw [h a (by omega) (by omega), ih fun b h1 h2 => h b (by omega) (by omega)]

theorem Memory.bytes_eq_read {m n : Memory} {a k : Nat} (h : m.bytes a k = n.bytes a k) {b : Nat} (h1 : a ≤ b)
    (h2 : b < a + k) : m.read b = n.read b := by
  induction k generalizing a with
  | zero => omega
  | succ k ih =>
    simp only [Memory.bytes, List.cons.injEq] at h
    rcases Nat.eq_or_lt_of_le h1 with rfl | h1
    · exact h.1
    · exact ih h.2 h1 (by omega)

end Sys2Proof.Machine
end

