-- ==== Sys2Proof/Laws/State.lean ====
section
/-! SUPPORT. One lemma per field of State per update of Machine/Ops.lean, Machine/Color.lean, Machine/Pixel.lean and Machine/Header.lean: what the
update writes there, or that it leaves the field alone. -/

namespace Sys2Proof.Machine

/-! ### setPrev -/

@[simp] theorem State.setPrev_prev (s : State) (c : Color) : (s.setPrev c).prev = c := rfl
@[simp] theorem State.setPrev_run (s : State) (c : Color) : (s.setPrev c).run = s.run := rfl
@[simp] theorem State.setPrev_cur (s : State) (c : Color) : (s.setPrev c).cur = s.cur := rfl
@[simp] theorem State.setPrev_cache (s : State) (c : Color) : (s.setPrev c).cache = s.cache := rfl
@[simp] theorem State.setPrev_pix (s : State) (c : Color) : (s.setPrev c).pix = s.pix := rfl
@[simp] theorem State.setPrev_width (s : State) (c : Color) : (s.setPrev c).width = s.width := rfl
@[simp] theorem State.setPrev_height (s : State) (c : Color) : (s.setPrev c).height = s.height := rfl
@[simp] theorem State.setPrev_channels (s : State) (c : Color) : (s.setPrev c).channels = s.channels := rfl
@[simp] theorem State.setPrev_colorspace (s : State) (c : Color) : (s.setPrev c).colorspace = s.colorspace := rfl
@[simp] theorem State.setPrev_len (s : State) (c : Color) : (s.setPrev c).len = s.len := rfl
@[simp] theorem State.setPrev_seq (s : State) (c : Color) : (s.setPrev c).seq = s.seq := rfl
@[simp] theorem State.setPrev_mode (s : State) (c : Color) : (s.setPrev c).mode = s.mode := rfl
@[simp] theorem State.setPrev_valid (s : State) (c : Color) : (s.setPrev c).valid = s.valid := rfl
@[simp] theorem State.setPrev_errcode (s : State) (c : Color) : (s.setPrev c).errcode = s.errcode := rfl
@[simp] theorem State.setPrev_inMem (s : State) (c : Color) : (s.setPrev c).inMem = s.inMem := rfl
@[simp] theorem State.setPrev_outMem (s : State) (c : Color) : (s.setPrev c).outMem = s.outMem := rfl
@[simp] theorem State.setPrev_outBytes (s : State) (c : Color) : (s.setPrev c).outBytes = s.outBytes := rfl
@[simp] theorem State.setPrev_hostMoves (s : State) (c : Color) : (s.setPrev c).hostMoves = s.hostMoves := rfl
@[simp] theorem State.setPrev_hostData (s : State) (c : Color) : (s.setPrev c).hostData = s.hostData := rfl
@[simp] theorem State.setPrev_draws (s : State) (c : Color) : (s.setPrev c).draws = s.draws := rfl

/-! ### setRun -/

@[simp] theorem State.setRun_prev (s : State) (n : BitVec 6) : (s.setRun n).prev = s.prev := rfl
@[simp] theorem State.setRun_run (s : State) (n : BitVec 6) : (s.setRun n).run = n := rfl
@[simp] theorem State.setRun_cur (s : State) (n : BitVec 6) : (s.setRun n).cur = s.cur := rfl
@[simp] theorem State.setRun_cache (s : State) (n : BitVec 6) : (s.setRun n).cache = s.cache := rfl
@[simp] theorem State.setRun_pix (s : State) (n : BitVec 6) : (s.setRun n).pix = s.pix := rfl
@[simp] theorem State.setRun_width (s : State) (n : BitVec 6) : (s.setRun n).width = s.width := rfl
@[simp] theorem State.setRun_height (s : State) (n : BitVec 6) : (s.setRun n).height = s.height := rfl
@[simp] theorem State.setRun_channels (s : State) (n : BitVec 6) : (s.setRun n).channels = s.channels := rfl
@[simp] theorem State.setRun_colorspace (s : State) (n : BitVec 6) : (s.setRun n).colorspace = s.colorspace := rfl
@[simp] theorem State.setRun_len (s : State) (n : BitVec 6) : (s.setRun n).len = s.len := rfl
@[simp] theorem State.setRun_seq (s : State) (n : BitVec 6) : (s.setRun n).seq = s.seq := rfl
@[simp] theorem State.setRun_mode (s : State) (n : BitVec 6) : (s.setRun n).mode = s.mode := rfl
@[simp] theorem State.setRun_valid (s : State) (n : BitVec 6) : (s.setRun n).valid = s.valid := rfl
@[simp] theorem State.setRun_errcode (s : State) (n : BitVec 6) : (s.setRun n).errcode = s.errcode := rfl
@[simp] theorem State.setRun_inMem (s : State) (n : BitVec 6) : (s.setRun n).inMem = s.inMem := rfl
@[simp] theorem State.setRun_outMem (s : State) (n : BitVec 6) : (s.setRun n).outMem = s.outMem := rfl
@[simp] theorem State.setRun_outBytes (s : State) (n : BitVec 6) : (s.setRun n).outBytes = s.outBytes := rfl
@[simp] theorem State.setRun_hostMoves (s : State) (n : BitVec 6) : (s.setRun n).hostMoves = s.hostMoves := rfl
@[simp] theorem State.setRun_hostData (s : State) (n : BitVec 6) : (s.setRun n).hostData = s.hostData := rfl
@[simp] theorem State.setRun_draws (s : State) (n : BitVec 6) : (s.setRun n).draws = s.draws := rfl

/-! ### advanceCur -/

@[simp] theorem State.advanceCur_prev (s : State) (k : Nat) : (s.advanceCur k).prev = s.prev := rfl
@[simp] theorem State.advanceCur_run (s : State) (k : Nat) : (s.advanceCur k).run = s.run := rfl
@[simp] theorem State.advanceCur_cur (s : State) (k : Nat) : (s.advanceCur k).cur = s.cur + BitVec.ofNat 32 k := rfl
@[simp] theorem State.advanceCur_cache (s : State) (k : Nat) : (s.advanceCur k).cache = s.cache := rfl
@[simp] theorem State.advanceCur_pix (s : State) (k : Nat) : (s.advanceCur k).pix = s.pix := rfl
@[simp] theorem State.advanceCur_width (s : State) (k : Nat) : (s.advanceCur k).width = s.width := rfl
@[simp] theorem State.advanceCur_height (s : State) (k : Nat) : (s.advanceCur k).height = s.height := rfl
@[simp] theorem State.advanceCur_channels (s : State) (k : Nat) : (s.advanceCur k).channels = s.channels := rfl
@[simp] theorem State.advanceCur_colorspace (s : State) (k : Nat) : (s.advanceCur k).colorspace = s.colorspace := rfl
@[simp] theorem State.advanceCur_len (s : State) (k : Nat) : (s.advanceCur k).len = s.len := rfl
@[simp] theorem State.advanceCur_seq (s : State) (k : Nat) : (s.advanceCur k).seq = s.seq := rfl
@[simp] theorem State.advanceCur_mode (s : State) (k : Nat) : (s.advanceCur k).mode = s.mode := rfl
@[simp] theorem State.advanceCur_valid (s : State) (k : Nat) : (s.advanceCur k).valid = s.valid := rfl
@[simp] theorem State.advanceCur_errcode (s : State) (k : Nat) : (s.advanceCur k).errcode = s.errcode := rfl
@[simp] theorem State.advanceCur_inMem (s : State) (k : Nat) : (s.advanceCur k).inMem = s.inMem := rfl
@[simp] theorem State.advanceCur_outMem (s : State) (k : Nat) : (s.advanceCur k).outMem = s.outMem := rfl
@[simp] theorem State.advanceCur_outBytes (s : State) (k : Nat) : (s.advanceCur k).outBytes = s.outBytes := rfl
@[simp] theorem State.advanceCur_hostMoves (s : State) (k : Nat) : (s.advanceCur k).hostMoves = s.hostMoves := rfl
@[simp] theorem State.advanceCur_hostData (s : State) (k : Nat) : (s.advanceCur k).hostData = s.hostData := rfl
@[simp] theorem State.advanceCur_draws (s : State) (k : Nat) : (s.advanceCur k).draws = s.draws := rfl

/-! ### setSlot -/

@[simp] theorem State.setSlot_prev (s : State) (i : Fin Config.cacheSlots) (c : Color) : (s.setSlot i c).prev = s.prev := rfl
@[simp] theorem State.setSlot_run (s : State) (i : Fin Config.cacheSlots) (c : Color) : (s.setSlot i c).run = s.run := rfl
@[simp] theorem State.setSlot_cur (s : State) (i : Fin Config.cacheSlots) (c : Color) : (s.setSlot i c).cur = s.cur := rfl
@[simp] theorem State.setSlot_cache (s : State) (i : Fin Config.cacheSlots) (c : Color) : (s.setSlot i c).cache = s.cache.set i c := rfl
@[simp] theorem State.setSlot_pix (s : State) (i : Fin Config.cacheSlots) (c : Color) : (s.setSlot i c).pix = s.pix := rfl
@[simp] theorem State.setSlot_width (s : State) (i : Fin Config.cacheSlots) (c : Color) : (s.setSlot i c).width = s.width := rfl
@[simp] theorem State.setSlot_height (s : State) (i : Fin Config.cacheSlots) (c : Color) : (s.setSlot i c).height = s.height := rfl
@[simp] theorem State.setSlot_channels (s : State) (i : Fin Config.cacheSlots) (c : Color) : (s.setSlot i c).channels = s.channels := rfl
@[simp] theorem State.setSlot_colorspace (s : State) (i : Fin Config.cacheSlots) (c : Color) :
    (s.setSlot i c).colorspace = s.colorspace := rfl
@[simp] theorem State.setSlot_len (s : State) (i : Fin Config.cacheSlots) (c : Color) : (s.setSlot i c).len = s.len := rfl
@[simp] theorem State.setSlot_seq (s : State) (i : Fin Config.cacheSlots) (c : Color) : (s.setSlot i c).seq = s.seq := rfl
@[simp] theorem State.setSlot_mode (s : State) (i : Fin Config.cacheSlots) (c : Color) : (s.setSlot i c).mode = s.mode := rfl
@[simp] theorem State.setSlot_valid (s : State) (i : Fin Config.cacheSlots) (c : Color) : (s.setSlot i c).valid = s.valid := rfl
@[simp] theorem State.setSlot_errcode (s : State) (i : Fin Config.cacheSlots) (c : Color) : (s.setSlot i c).errcode = s.errcode := rfl
@[simp] theorem State.setSlot_inMem (s : State) (i : Fin Config.cacheSlots) (c : Color) : (s.setSlot i c).inMem = s.inMem := rfl
@[simp] theorem State.setSlot_outMem (s : State) (i : Fin Config.cacheSlots) (c : Color) : (s.setSlot i c).outMem = s.outMem := rfl
@[simp] theorem State.setSlot_outBytes (s : State) (i : Fin Config.cacheSlots) (c : Color) : (s.setSlot i c).outBytes = s.outBytes := rfl
@[simp] theorem State.setSlot_hostMoves (s : State) (i : Fin Config.cacheSlots) (c : Color) : (s.setSlot i c).hostMoves = s.hostMoves := rfl
@[simp] theorem State.setSlot_hostData (s : State) (i : Fin Config.cacheSlots) (c : Color) : (s.setSlot i c).hostData = s.hostData := rfl
@[simp] theorem State.setSlot_draws (s : State) (i : Fin Config.cacheSlots) (c : Color) : (s.setSlot i c).draws = s.draws := rfl

/-! ### enterFail -/

@[simp] theorem State.enterFail_prev (s : State) (e : ErrCode) : (s.enterFail e).prev = s.prev := rfl
@[simp] theorem State.enterFail_run (s : State) (e : ErrCode) : (s.enterFail e).run = s.run := rfl
@[simp] theorem State.enterFail_cur (s : State) (e : ErrCode) : (s.enterFail e).cur = s.cur := rfl
@[simp] theorem State.enterFail_cache (s : State) (e : ErrCode) : (s.enterFail e).cache = s.cache := rfl
@[simp] theorem State.enterFail_pix (s : State) (e : ErrCode) : (s.enterFail e).pix = s.pix := rfl
@[simp] theorem State.enterFail_width (s : State) (e : ErrCode) : (s.enterFail e).width = Config.freeWord s.draws := rfl
@[simp] theorem State.enterFail_height (s : State) (e : ErrCode) : (s.enterFail e).height = Config.freeWord (s.draws + 1) := rfl
@[simp] theorem State.enterFail_channels (s : State) (e : ErrCode) : (s.enterFail e).channels = Config.freeByte s.draws := rfl
@[simp] theorem State.enterFail_colorspace (s : State) (e : ErrCode) : (s.enterFail e).colorspace = Config.freeByte (s.draws + 1) := rfl
@[simp] theorem State.enterFail_len (s : State) (e : ErrCode) : (s.enterFail e).len = s.len := rfl
@[simp] theorem State.enterFail_seq (s : State) (e : ErrCode) : (s.enterFail e).seq = .fail := rfl
@[simp] theorem State.enterFail_mode (s : State) (e : ErrCode) : (s.enterFail e).mode = s.mode := rfl
@[simp] theorem State.enterFail_valid (s : State) (e : ErrCode) : (s.enterFail e).valid = s.valid := rfl
@[simp] theorem State.enterFail_errcode (s : State) (e : ErrCode) : (s.enterFail e).errcode = e := rfl
@[simp] theorem State.enterFail_inMem (s : State) (e : ErrCode) : (s.enterFail e).inMem = s.inMem := rfl
@[simp] theorem State.enterFail_outMem (s : State) (e : ErrCode) : (s.enterFail e).outMem = s.outMem := rfl
@[simp] theorem State.enterFail_outBytes (s : State) (e : ErrCode) : (s.enterFail e).outBytes = s.outBytes := rfl
@[simp] theorem State.enterFail_hostMoves (s : State) (e : ErrCode) : (s.enterFail e).hostMoves = s.hostMoves := rfl
@[simp] theorem State.enterFail_hostData (s : State) (e : ErrCode) : (s.enterFail e).hostData = s.hostData := rfl
@[simp] theorem State.enterFail_draws (s : State) (e : ErrCode) : (s.enterFail e).draws = s.draws + 2 := rfl

/-! ### commandStep -/

@[simp] theorem State.commandStep_prev (s : State) (m : Mode) : (s.commandStep m).prev = s.prev := rfl
@[simp] theorem State.commandStep_run (s : State) (m : Mode) : (s.commandStep m).run = s.run := rfl
@[simp] theorem State.commandStep_cur (s : State) (m : Mode) : (s.commandStep m).cur = s.cur := rfl
@[simp] theorem State.commandStep_cache (s : State) (m : Mode) : (s.commandStep m).cache = s.cache := rfl
@[simp] theorem State.commandStep_pix (s : State) (m : Mode) : (s.commandStep m).pix = 0 := rfl
@[simp] theorem State.commandStep_width (s : State) (m : Mode) : (s.commandStep m).width = s.width := rfl
@[simp] theorem State.commandStep_height (s : State) (m : Mode) : (s.commandStep m).height = s.height := rfl
@[simp] theorem State.commandStep_channels (s : State) (m : Mode) : (s.commandStep m).channels = s.channels := rfl
@[simp] theorem State.commandStep_colorspace (s : State) (m : Mode) : (s.commandStep m).colorspace = s.colorspace := rfl
@[simp] theorem State.commandStep_len (s : State) (m : Mode) : (s.commandStep m).len = s.len := rfl
@[simp] theorem State.commandStep_seq (s : State) (m : Mode) : (s.commandStep m).seq = .header := rfl
@[simp] theorem State.commandStep_mode (s : State) (m : Mode) : (s.commandStep m).mode = m := rfl
@[simp] theorem State.commandStep_valid (s : State) (m : Mode) : (s.commandStep m).valid = false := rfl
@[simp] theorem State.commandStep_errcode (s : State) (m : Mode) : (s.commandStep m).errcode = .none := rfl
@[simp] theorem State.commandStep_inMem (s : State) (m : Mode) : (s.commandStep m).inMem = s.inMem := rfl
@[simp] theorem State.commandStep_outMem (s : State) (m : Mode) : (s.commandStep m).outMem = s.outMem := rfl
@[simp] theorem State.commandStep_outBytes (s : State) (m : Mode) : (s.commandStep m).outBytes = s.outBytes := rfl
@[simp] theorem State.commandStep_hostMoves (s : State) (m : Mode) : (s.commandStep m).hostMoves = s.hostMoves := rfl
@[simp] theorem State.commandStep_hostData (s : State) (m : Mode) : (s.commandStep m).hostData = s.hostData := rfl
@[simp] theorem State.commandStep_draws (s : State) (m : Mode) : (s.commandStep m).draws = s.draws := rfl

/-! ### decodeStart -/

@[simp] theorem State.decodeStart_prev (s : State) : s.decodeStart.prev = prevInit := rfl
@[simp] theorem State.decodeStart_run (s : State) : s.decodeStart.run = 0 := rfl
@[simp] theorem State.decodeStart_cur (s : State) : s.decodeStart.cur = curInit := rfl
@[simp] theorem State.decodeStart_cache (s : State) : s.decodeStart.cache = Vector.replicate Config.cacheSlots cacheInit := rfl
@[simp] theorem State.decodeStart_pix (s : State) : s.decodeStart.pix = s.pix := rfl
@[simp] theorem State.decodeStart_width (s : State) : s.decodeStart.width = s.width := rfl
@[simp] theorem State.decodeStart_height (s : State) : s.decodeStart.height = s.height := rfl
@[simp] theorem State.decodeStart_channels (s : State) : s.decodeStart.channels = s.channels := rfl
@[simp] theorem State.decodeStart_colorspace (s : State) : s.decodeStart.colorspace = s.colorspace := rfl
@[simp] theorem State.decodeStart_len (s : State) : s.decodeStart.len = s.len := rfl
@[simp] theorem State.decodeStart_seq (s : State) : s.decodeStart.seq = s.seq := rfl
@[simp] theorem State.decodeStart_mode (s : State) : s.decodeStart.mode = s.mode := rfl
@[simp] theorem State.decodeStart_valid (s : State) : s.decodeStart.valid = s.valid := rfl
@[simp] theorem State.decodeStart_errcode (s : State) : s.decodeStart.errcode = s.errcode := rfl
@[simp] theorem State.decodeStart_inMem (s : State) : s.decodeStart.inMem = s.inMem := rfl
@[simp] theorem State.decodeStart_outMem (s : State) : s.decodeStart.outMem = s.outMem := rfl
@[simp] theorem State.decodeStart_outBytes (s : State) : s.decodeStart.outBytes = s.outBytes := rfl
@[simp] theorem State.decodeStart_hostMoves (s : State) : s.decodeStart.hostMoves = s.hostMoves := rfl
@[simp] theorem State.decodeStart_hostData (s : State) : s.decodeStart.hostData = s.hostData := rfl
@[simp] theorem State.decodeStart_draws (s : State) : s.decodeStart.draws = s.draws := rfl

/-! ### countPixel -/

@[simp] theorem State.countPixel_prev (s : State) : s.countPixel.prev = s.prev := rfl
@[simp] theorem State.countPixel_run (s : State) : s.countPixel.run = s.run := rfl
@[simp] theorem State.countPixel_cur (s : State) : s.countPixel.cur = s.cur := rfl
@[simp] theorem State.countPixel_cache (s : State) : s.countPixel.cache = s.cache := rfl
@[simp] theorem State.countPixel_pix (s : State) : s.countPixel.pix = s.pix + 1 := rfl
@[simp] theorem State.countPixel_width (s : State) : s.countPixel.width = s.width := rfl
@[simp] theorem State.countPixel_height (s : State) : s.countPixel.height = s.height := rfl
@[simp] theorem State.countPixel_channels (s : State) : s.countPixel.channels = s.channels := rfl
@[simp] theorem State.countPixel_colorspace (s : State) : s.countPixel.colorspace = s.colorspace := rfl
@[simp] theorem State.countPixel_len (s : State) : s.countPixel.len = s.len := rfl
@[simp] theorem State.countPixel_seq (s : State) : s.countPixel.seq = if (s.pix + 1).toNat = s.npix then .done else s.seq := rfl
@[simp] theorem State.countPixel_mode (s : State) : s.countPixel.mode = s.mode := rfl
@[simp] theorem State.countPixel_valid (s : State) : s.countPixel.valid = s.valid := rfl
@[simp] theorem State.countPixel_errcode (s : State) : s.countPixel.errcode = s.errcode := rfl
@[simp] theorem State.countPixel_inMem (s : State) : s.countPixel.inMem = s.inMem := rfl
@[simp] theorem State.countPixel_outMem (s : State) : s.countPixel.outMem = s.outMem := rfl
@[simp] theorem State.countPixel_outBytes (s : State) : s.countPixel.outBytes = s.outBytes := rfl
@[simp] theorem State.countPixel_hostMoves (s : State) : s.countPixel.hostMoves = s.hostMoves := rfl
@[simp] theorem State.countPixel_hostData (s : State) : s.countPixel.hostData = s.hostData := rfl
@[simp] theorem State.countPixel_draws (s : State) : s.countPixel.draws = s.draws := rfl

/-! ### loadHeader -/

@[simp] theorem State.loadHeader_prev (s : State) (f : HeaderFields) : (s.loadHeader f).prev = s.prev := rfl
@[simp] theorem State.loadHeader_run (s : State) (f : HeaderFields) : (s.loadHeader f).run = s.run := rfl
@[simp] theorem State.loadHeader_cur (s : State) (f : HeaderFields) : (s.loadHeader f).cur = s.cur := rfl
@[simp] theorem State.loadHeader_cache (s : State) (f : HeaderFields) : (s.loadHeader f).cache = s.cache := rfl
@[simp] theorem State.loadHeader_pix (s : State) (f : HeaderFields) : (s.loadHeader f).pix = s.pix := rfl
@[simp] theorem State.loadHeader_width (s : State) (f : HeaderFields) : (s.loadHeader f).width = BitVec.ofNat 32 f.w := rfl
@[simp] theorem State.loadHeader_height (s : State) (f : HeaderFields) : (s.loadHeader f).height = BitVec.ofNat 32 f.h := rfl
@[simp] theorem State.loadHeader_channels (s : State) (f : HeaderFields) : (s.loadHeader f).channels = BitVec.ofNat 8 f.ch := rfl
@[simp] theorem State.loadHeader_colorspace (s : State) (f : HeaderFields) : (s.loadHeader f).colorspace = BitVec.ofNat 8 f.cs := rfl
@[simp] theorem State.loadHeader_len (s : State) (f : HeaderFields) : (s.loadHeader f).len = s.len := rfl
@[simp] theorem State.loadHeader_seq (s : State) (f : HeaderFields) : (s.loadHeader f).seq = s.seq := rfl
@[simp] theorem State.loadHeader_mode (s : State) (f : HeaderFields) : (s.loadHeader f).mode = s.mode := rfl
@[simp] theorem State.loadHeader_valid (s : State) (f : HeaderFields) : (s.loadHeader f).valid = true := rfl
@[simp] theorem State.loadHeader_errcode (s : State) (f : HeaderFields) : (s.loadHeader f).errcode = s.errcode := rfl
@[simp] theorem State.loadHeader_inMem (s : State) (f : HeaderFields) : (s.loadHeader f).inMem = s.inMem := rfl
@[simp] theorem State.loadHeader_outMem (s : State) (f : HeaderFields) : (s.loadHeader f).outMem = s.outMem := rfl
@[simp] theorem State.loadHeader_outBytes (s : State) (f : HeaderFields) : (s.loadHeader f).outBytes = s.outBytes := rfl
@[simp] theorem State.loadHeader_hostMoves (s : State) (f : HeaderFields) : (s.loadHeader f).hostMoves = s.hostMoves := rfl
@[simp] theorem State.loadHeader_hostData (s : State) (f : HeaderFields) : (s.loadHeader f).hostData = s.hostData := rfl
@[simp] theorem State.loadHeader_draws (s : State) (f : HeaderFields) : (s.loadHeader f).draws = s.draws := rfl

/-! ### cacheUpdate -/

@[simp] theorem State.cacheUpdate_prev (s : State) : s.cacheUpdate.prev = s.prev := rfl
@[simp] theorem State.cacheUpdate_run (s : State) : s.cacheUpdate.run = s.run := rfl
@[simp] theorem State.cacheUpdate_cur (s : State) : s.cacheUpdate.cur = s.cur := rfl
@[simp] theorem State.cacheUpdate_cache (s : State) : s.cacheUpdate.cache = s.cache.set (hash s.prev) s.prev := rfl
@[simp] theorem State.cacheUpdate_pix (s : State) : s.cacheUpdate.pix = s.pix := rfl
@[simp] theorem State.cacheUpdate_width (s : State) : s.cacheUpdate.width = s.width := rfl
@[simp] theorem State.cacheUpdate_height (s : State) : s.cacheUpdate.height = s.height := rfl
@[simp] theorem State.cacheUpdate_channels (s : State) : s.cacheUpdate.channels = s.channels := rfl
@[simp] theorem State.cacheUpdate_colorspace (s : State) : s.cacheUpdate.colorspace = s.colorspace := rfl
@[simp] theorem State.cacheUpdate_len (s : State) : s.cacheUpdate.len = s.len := rfl
@[simp] theorem State.cacheUpdate_seq (s : State) : s.cacheUpdate.seq = s.seq := rfl
@[simp] theorem State.cacheUpdate_mode (s : State) : s.cacheUpdate.mode = s.mode := rfl
@[simp] theorem State.cacheUpdate_valid (s : State) : s.cacheUpdate.valid = s.valid := rfl
@[simp] theorem State.cacheUpdate_errcode (s : State) : s.cacheUpdate.errcode = s.errcode := rfl
@[simp] theorem State.cacheUpdate_inMem (s : State) : s.cacheUpdate.inMem = s.inMem := rfl
@[simp] theorem State.cacheUpdate_outMem (s : State) : s.cacheUpdate.outMem = s.outMem := rfl
@[simp] theorem State.cacheUpdate_outBytes (s : State) : s.cacheUpdate.outBytes = s.outBytes := rfl
@[simp] theorem State.cacheUpdate_hostMoves (s : State) : s.cacheUpdate.hostMoves = s.hostMoves := rfl
@[simp] theorem State.cacheUpdate_hostData (s : State) : s.cacheUpdate.hostData = s.hostData := rfl
@[simp] theorem State.cacheUpdate_draws (s : State) : s.cacheUpdate.draws = s.draws := rfl

/-! ### resetEvent -/

@[simp] theorem State.resetEvent_prev (s : State) : s.resetEvent.prev = Config.freeColor s.draws := rfl
@[simp] theorem State.resetEvent_run (s : State) : s.resetEvent.run = Config.freeRun s.draws := rfl
@[simp] theorem State.resetEvent_cur (s : State) : s.resetEvent.cur = Config.freeWord s.draws := rfl
@[simp] theorem State.resetEvent_cache (s : State) :
    s.resetEvent.cache = Vector.ofFn fun i : Fin Config.cacheSlots => Config.freeColor (s.draws + 1 + i.val) := rfl
@[simp] theorem State.resetEvent_pix (s : State) : s.resetEvent.pix = 0 := rfl
@[simp] theorem State.resetEvent_width (s : State) : s.resetEvent.width = 0 := rfl
@[simp] theorem State.resetEvent_height (s : State) : s.resetEvent.height = 0 := rfl
@[simp] theorem State.resetEvent_channels (s : State) : s.resetEvent.channels = 0 := rfl
@[simp] theorem State.resetEvent_colorspace (s : State) : s.resetEvent.colorspace = 0 := rfl
@[simp] theorem State.resetEvent_len (s : State) : s.resetEvent.len = 0 := rfl
@[simp] theorem State.resetEvent_seq (s : State) : s.resetEvent.seq = .idle := rfl
@[simp] theorem State.resetEvent_mode (s : State) : s.resetEvent.mode = .decode := rfl
@[simp] theorem State.resetEvent_valid (s : State) : s.resetEvent.valid = false := rfl
@[simp] theorem State.resetEvent_errcode (s : State) : s.resetEvent.errcode = .none := rfl
@[simp] theorem State.resetEvent_inMem (s : State) : s.resetEvent.inMem = s.inMem := rfl
@[simp] theorem State.resetEvent_outMem (s : State) : s.resetEvent.outMem = s.outMem := rfl
@[simp] theorem State.resetEvent_outBytes (s : State) : s.resetEvent.outBytes = s.outBytes := rfl
@[simp] theorem State.resetEvent_hostMoves (s : State) : s.resetEvent.hostMoves = s.hostMoves := rfl
@[simp] theorem State.resetEvent_hostData (s : State) : s.resetEvent.hostData = s.hostData := rfl
@[simp] theorem State.resetEvent_draws (s : State) : s.resetEvent.draws = s.draws + 1 + Config.cacheSlots := rfl

end Sys2Proof.Machine
end

