-- ==== Sys2Proof/Laws/Ops.lean ====
section
/-! SUPPORT. One lemma per shared operation, saying everything it can do: the emit, the end of a pixel step, the fetch, and every opcode's
meaning as one shape. -/

namespace Sys2Proof.Machine

@[simp] theorem andThen_next (s : State) (f : State → Result) : andThen (.next s) f = f s := rfl
@[simp] theorem andThen_fault (r : Fault) (f : State → Result) : andThen (.fault r) f = .fault r := rfl
@[simp] theorem andThen_refused (r : Refusal) (f : State → Result) : andThen (.refused r) f = .refused r := rfl

theorem writeOutBytes_next (a : Nat) (vs : List Byte) (s : State) (h : a + vs.length ≤ s.outBytes) :
    writeOutBytes a vs s = .next { s with outMem := s.outMem.writeBytes a vs } := by
  induction vs generalizing a s with
  | nil => rfl
  | cons v vs ih =>
    simp only [List.length_cons] at h
    have ha : a < s.outBytes := by omega
    simp only [writeOutBytes, writeOut, if_pos ha, andThen_next]
    exact ih (a + 1) _ (by simpa using (by omega : a + 1 + vs.length ≤ s.outBytes))

theorem writeOutBytes_fault (a : Nat) (vs : List Byte) (s : State) (hne : vs ≠ []) (h : ¬ a + vs.length ≤ s.outBytes) :
    writeOutBytes a vs s = .fault .outOverflow := by
  induction vs generalizing a s with
  | nil => exact absurd rfl hne
  | cons v vs ih =>
    simp only [List.length_cons] at h
    by_cases ha : a < s.outBytes
    · simp only [writeOutBytes, writeOut, if_pos ha, andThen_next]
      refine ih (a + 1) _ ?_ (by simpa using (by omega : ¬ a + 1 + vs.length ≤ s.outBytes))
      rintro rfl
      simp at h; omega
    · simp [writeOutBytes, writeOut, if_neg ha]

theorem pixelBytes_eq (s : State) : s.pixelBytes = colorBytes s.channels s.prev := rfl

theorem length_pixelBytes (s : State) : s.pixelBytes.length = s.emitCount := by
  simp only [State.pixelBytes, State.emitCount]; split <;> rfl

theorem length_colorBytes (n : Byte) (c : Color) : (colorBytes n c).length = if n = 4 then 4 else 3 := by
  simp only [colorBytes]; split <;> rfl

theorem pixelBytes_ne_nil (s : State) : s.pixelBytes ≠ [] := by
  simp only [State.pixelBytes]; split <;> simp

/-- The state after a pixel step's end: the slot's bytes written, the pixel counted. -/
def State.afterPixel (s : State) : State := State.countPixel { s with outMem := s.outMem.writeBytes s.slotBase s.pixelBytes }

theorem finishPixel_eq (s : State) :
    (s.RoomForPixel ∧ finishPixel s = .next s.afterPixel) ∨ (¬ s.RoomForPixel ∧ finishPixel s = .fault .outOverflow) := by
  by_cases h : s.RoomForPixel
  · refine Or.inl ⟨h, ?_⟩
    unfold finishPixel emit
    rw [writeOutBytes_next _ _ _ (by rw [length_pixelBytes]; exact h)]
    rfl
  · refine Or.inr ⟨h, ?_⟩
    unfold finishPixel emit
    rw [writeOutBytes_fault _ _ _ (pixelBytes_ne_nil s) (by rw [length_pixelBytes]; exact h)]
    rfl

theorem finishPixel_room {s : State} (h : s.RoomForPixel) : finishPixel s = .next s.afterPixel :=
  (finishPixel_eq s).elim (·.2) fun h' => absurd h h'.1

theorem finishPixel_noRoom {s : State} (h : ¬ s.RoomForPixel) : finishPixel s = .fault .outOverflow :=
  (finishPixel_eq s).elim (fun h' => absurd h'.1 h) (·.2)

theorem finishPixel_inv {s t : State} (h : finishPixel s = .next t) : s.RoomForPixel ∧ t = s.afterPixel := by
  rcases finishPixel_eq s with ⟨hr, he⟩ | ⟨_, he⟩
  · rw [he] at h; exact ⟨hr, by injection h with h; exact h.symm⟩
  · rw [he] at h; cases h

/-- The registers an opcode's Exec procedure leaves (R155 to R160), before the cache update. -/
def afterExec (i : Instr) (s : State) : State :=
  match i with
  | .rgb r g b => (s.setPrev (literalRgb s.prev r g b)).advanceCur 4
  | .rgba r g b a => (s.setPrev (literalRgba r g b a)).advanceCur 5
  | .index idx => (s.setPrev (s.slot (indexSlot idx))).advanceCur 1
  | .diff dr dg db => (s.setPrev (applyDelta s.prev dr dg db)).advanceCur 1
  | .luma dg drg dbg => (s.setPrev (applyDelta s.prev (lumaDelta dg drg) dg (lumaDelta dg dbg))).advanceCur 2
  | .run n => (s.setRun (runCount n)).advanceCur 1

/-- Every opcode's meaning has one shape: its Exec procedure, the cache update, the common end of the pixel step. -/
theorem exec_shape (i : Instr) (s : State) : exec i s = finishPixel (afterExec i s).cacheUpdate := by
  cases i <;> rfl

theorem roomForPixel_congr {s t : State} (h1 : t.pix = s.pix) (h2 : t.channels = s.channels) (h3 : t.outBytes = s.outBytes) :
    t.RoomForPixel ↔ s.RoomForPixel := by
  simp only [State.RoomForPixel, State.emitCount, h1, h2, h3]

/-- What an opcode's Exec procedure and cache update leave alone. -/
theorem afterExec_frame (i : Instr) (s : State) :
    let t := (afterExec i s).cacheUpdate
    t.pix = s.pix ∧ t.width = s.width ∧ t.height = s.height ∧ t.channels = s.channels ∧ t.colorspace = s.colorspace ∧
    t.len = s.len ∧ t.seq = s.seq ∧ t.mode = s.mode ∧ t.valid = s.valid ∧ t.errcode = s.errcode ∧ t.inMem = s.inMem ∧
    t.outMem = s.outMem ∧ t.outBytes = s.outBytes ∧ t.hostMoves = s.hostMoves ∧ t.hostData = s.hostData ∧ t.draws = s.draws := by
  cases i <;> simp [afterExec]

/-- An Exec procedure leaves the cache alone (R147: the write is the cache update's). -/
@[simp] theorem slot_afterExec (i : Instr) (s : State) (j : Fin Config.cacheSlots) : (afterExec i s).slot j = s.slot j := by
  cases i <;> rfl

theorem roomForPixel_afterExec (i : Instr) (s : State) : (afterExec i s).cacheUpdate.RoomForPixel ↔ s.RoomForPixel := by
  obtain ⟨h1, -, -, h2, -, -, -, -, -, -, -, -, h3, -⟩ := afterExec_frame i s
  exact roomForPixel_congr h1 h2 h3

theorem exec_room (i : Instr) {s : State} (h : s.RoomForPixel) : exec i s = .next (afterExec i s).cacheUpdate.afterPixel := by
  rw [exec_shape, finishPixel_room ((roomForPixel_afterExec i s).2 h)]

theorem exec_inv {i : Instr} {s t : State} (h : exec i s = .next t) :
    s.RoomForPixel ∧ t = (afterExec i s).cacheUpdate.afterPixel := by
  rw [exec_shape] at h
  obtain ⟨hr, rfl⟩ := finishPixel_inv h
  exact ⟨(roomForPixel_afterExec i s).1 hr, rfl⟩

theorem exec_noRoom (i : Instr) {s : State} (h : ¬ s.RoomForPixel) : exec i s = .fault .outOverflow := by
  rw [exec_shape, finishPixel_noRoom (by rwa [roomForPixel_afterExec])]

/-! ### The fields the end of a pixel step leaves -/

@[simp] theorem afterPixel_prev (s : State) : s.afterPixel.prev = s.prev := rfl
@[simp] theorem afterPixel_run (s : State) : s.afterPixel.run = s.run := rfl
@[simp] theorem afterPixel_cur (s : State) : s.afterPixel.cur = s.cur := rfl
@[simp] theorem afterPixel_cache (s : State) : s.afterPixel.cache = s.cache := rfl
@[simp] theorem afterPixel_slot (s : State) (i : Fin Config.cacheSlots) : s.afterPixel.slot i = s.slot i := rfl
@[simp] theorem afterPixel_pix (s : State) : s.afterPixel.pix = s.pix + 1 := rfl
@[simp] theorem afterPixel_width (s : State) : s.afterPixel.width = s.width := rfl
@[simp] theorem afterPixel_height (s : State) : s.afterPixel.height = s.height := rfl
@[simp] theorem afterPixel_channels (s : State) : s.afterPixel.channels = s.channels := rfl
@[simp] theorem afterPixel_colorspace (s : State) : s.afterPixel.colorspace = s.colorspace := rfl
@[simp] theorem afterPixel_len (s : State) : s.afterPixel.len = s.len := rfl
@[simp] theorem afterPixel_mode (s : State) : s.afterPixel.mode = s.mode := rfl
@[simp] theorem afterPixel_valid (s : State) : s.afterPixel.valid = s.valid := rfl
@[simp] theorem afterPixel_errcode (s : State) : s.afterPixel.errcode = s.errcode := rfl
@[simp] theorem afterPixel_inMem (s : State) : s.afterPixel.inMem = s.inMem := rfl
@[simp] theorem afterPixel_outMem (s : State) : s.afterPixel.outMem = s.outMem.writeBytes s.slotBase s.pixelBytes := rfl
@[simp] theorem afterPixel_outBytes (s : State) : s.afterPixel.outBytes = s.outBytes := rfl
@[simp] theorem afterPixel_hostMoves (s : State) : s.afterPixel.hostMoves = s.hostMoves := rfl
@[simp] theorem afterPixel_hostData (s : State) : s.afterPixel.hostData = s.hostData := rfl
@[simp] theorem afterPixel_draws (s : State) : s.afterPixel.draws = s.draws := rfl
@[simp] theorem afterPixel_seq (s : State) :
    s.afterPixel.seq = if (s.pix + 1).toNat = s.npix then .done else s.seq := rfl
@[simp] theorem afterPixel_npix (s : State) : s.afterPixel.npix = s.npix := rfl

end Sys2Proof.Machine
end

