-- ==== Sys2Proof/Laws/PerInstr.lean ====
section
/-! SUPPORT. Per-instruction families (LAWS.json): EncodeLength says that a well-formed instruction's first byte has the instruction's own class
(R87) and that its encoding is as long as R89 says. -/

namespace Sys2Proof.Laws.EncodeLength

/-- The encoding's length and class, for a well-formed instruction (R87, R89, R91). -/
def Statement (i : Instr) : Prop :=
  i.wellFormed = true → (encode i).length = opLength i.opcode ∧ ∃ b1 data, encode i = b1 :: data ∧ classify b1 = i.opcode

theorem rgb (r g b : Byte) : Statement (.rgb r g b) := fun _ => ⟨rfl, 0xFE, [r, g, b], rfl, (by decide : classify 0xFE = .rgb)⟩

theorem rgba (r g b a : Byte) : Statement (.rgba r g b a) := fun _ => ⟨rfl, 0xFF, [r, g, b, a], rfl, (by decide : classify 0xFF = .rgba)⟩

theorem index (idx : Nat) : Statement (.index idx) := fun h => by
  have h : idx ≤ 63 := by simpa [Instr.wellFormed] using h
  refine ⟨rfl, _, [], rfl, ?_⟩
  have := encByte_toNat (n := (0x00 : Int) + idx) (by omega) (by omega)
  rw [classify_eq, if_pos (by omega)]
  rfl

theorem diff (dr dg db : Int) : Statement (.diff dr dg db) := fun h => by
  simp only [Instr.wellFormed, diffDeltaOk, Bool.and_eq_true, decide_eq_true_eq] at h
  refine ⟨rfl, _, [], rfl, ?_⟩
  have := encByte_toNat (n := 0x40 + 16 * (dr + 2) + 4 * (dg + 2) + (db + 2)) (by omega) (by omega)
  rw [classify_eq, if_neg (by omega), if_pos (by omega)]
  rfl

theorem luma (dg drg dbg : Int) : Statement (.luma dg drg dbg) := fun h => by
  simp only [Instr.wellFormed, lumaGreenOk, Bool.and_eq_true, decide_eq_true_eq] at h
  refine ⟨rfl, _, [_], rfl, ?_⟩
  have := encByte_toNat (n := 0x80 + (dg + 32)) (by omega) (by omega)
  rw [classify_eq, if_neg (by omega), if_neg (by omega), if_pos (by omega)]
  rfl

theorem run (n : Nat) : Statement (.run n) := fun h => by
  have h : n ≤ 61 := by simpa [Instr.wellFormed] using h
  refine ⟨rfl, _, [], rfl, ?_⟩
  have := encByte_toNat (n := (0xC0 : Int) + n) (by omega) (by omega)
  rw [classify_eq, if_neg (by omega), if_neg (by omega), if_neg (by omega), if_pos (by omega)]
  rfl

end Sys2Proof.Laws.EncodeLength
end

