-- ==== Sys2Proof/Laws/Step.lean ====
section
/-! SUPPORT. What a turn can do, said once: the turn between host and block, the fetch, the pixel step's three branches, the header step's two
outcomes, and the inversion of the whole step. -/

namespace Sys2Proof.Machine

/-! ### Whose turn it is -/

theorem step_of_blockTurn {u s : State} (h : BlockTurn u s) : step u = blockStep s := by
  rcases h with ⟨h, rfl⟩ | ⟨ms, h, rfl⟩ <;> simp [step, takeTurn, h, hostMove]

theorem step_of_hostTurn {m : HostMove} {u s : State} (h : HostTurn m u s) : step u = hostMove m s := by
  obtain ⟨ms, h, rfl⟩ := h; simp [step, takeTurn, h]

theorem blockTurn_of_noMoves {s : State} (h : s.hostMoves = []) : BlockTurn s s := Or.inl ⟨h, rfl⟩

/-- Every step is the block's turn or one move of the host. -/
theorem step_cases (u : State) :
    (∃ s, BlockTurn u s ∧ step u = blockStep s) ∨ ∃ m s, m ≠ .wait ∧ HostTurn m u s ∧ step u = hostMove m s := by
  cases hm : u.hostMoves with
  | nil => exact Or.inl ⟨u, Or.inl ⟨hm, rfl⟩, step_of_blockTurn (Or.inl ⟨hm, rfl⟩)⟩
  | cons m ms =>
    by_cases hw : m = .wait
    · subst hw
      have h : BlockTurn u { u with hostMoves := ms } := Or.inr ⟨ms, hm, rfl⟩
      exact Or.inl ⟨_, h, step_of_blockTurn h⟩
    · have h : HostTurn m u { u with hostMoves := ms } := ⟨ms, hm, rfl⟩
      exact Or.inr ⟨m, _, hw, h, step_of_hostTurn h⟩

/-- A turn's two states differ in the schedule of host moves only. -/
theorem blockTurn_frame {u s : State} (h : BlockTurn u s) : ∃ ms, s = { u with hostMoves := ms } := by
  rcases h with ⟨-, rfl⟩ | ⟨ms, -, rfl⟩
  · exact ⟨_, rfl⟩
  · exact ⟨ms, rfl⟩

theorem hostTurn_frame {m : HostMove} {u s : State} (h : HostTurn m u s) : ∃ ms, s = { u with hostMoves := ms } := by
  obtain ⟨ms, -, rfl⟩ := h; exact ⟨ms, rfl⟩

/-! ### The fetch -/

theorem readIn_inBounds {s : State} {a n : Nat} (h : a + n ≤ s.len.toNat) : readIn s a n = some (s.inMem.bytes a n) := if_pos h

/-- Before the chunk end every byte of the opcode lies inside IN (R58), and the bytes decode. -/
theorem fetchBytes_beforeEnd {s : State} (h : s.cur.toNat + 8 < s.len.toNat) :
    ∃ b1, b1 = s.inMem.read s.cur.toNat ∧
      fetchBytes s = some (s.inMem.bytes s.cur.toNat (opLength (classify b1))) := by
  refine ⟨_, rfl, ?_⟩
  have hp := opLength_pos (classify (s.inMem.read s.cur.toNat))
  have hl := opLength_le (classify (s.inMem.read s.cur.toNat))
  obtain ⟨k, hk⟩ : ∃ k, opLength (classify (s.inMem.read s.cur.toNat)) = k + 1 := ⟨_, (Nat.sub_add_cancel hp).symm⟩
  unfold fetchBytes
  rw [readIn_inBounds (by omega)]
  simp only [Memory.bytes]
  rw [readIn_inBounds (by omega), hk]
  rfl

theorem opcodeResolved_eq {s : State} (h : s.cur.toNat + 8 < s.len.toNat) :
    ∃ i, decode (s.inMem.bytes s.cur.toNat (opLength (classify (s.inMem.read s.cur.toNat)))) = .ok i [] ∧
      opcodeResolved s = exec i s := by
  obtain ⟨b1, rfl, hf⟩ := fetchBytes_beforeEnd h
  have hp := opLength_pos (classify (s.inMem.read s.cur.toNat))
  obtain ⟨k, hk⟩ : ∃ k, opLength (classify (s.inMem.read s.cur.toNat)) = k + 1 := ⟨_, (Nat.sub_add_cancel hp).symm⟩
  obtain ⟨i, hi⟩ := decode_of_length (b1 := s.inMem.read s.cur.toNat) (s.inMem.bytes (s.cur.toNat + 1) k)
    (by rw [Memory.length_bytes, hk])
  have hi' : decode (s.inMem.bytes s.cur.toNat (opLength (classify (s.inMem.read s.cur.toNat)))) = .ok i [] := by
    rw [hk]; exact hi
  exact ⟨i, hi', by simp [opcodeResolved, hf, hi']⟩

/-! ### The pixel step -/

theorem pixelStep_run {s : State} (h : s.run ≠ 0) : pixelStep s = finishPixel (s.setRun (s.run - 1)) := by
  have : 0 < s.run.toNat := Nat.pos_of_ne_zero fun h0 => h (BitVec.eq_of_toNat_eq (by simpa using h0))
  simp [pixelStep, this, runContinue]

theorem pixelStep_tail {s : State} (h : s.run = 0) (he : ¬ s.cur.toNat + 8 < s.len.toNat) : pixelStep s = finishPixel s := by
  simp [pixelStep, h, State.beforeChunkEnd, he, tailFill]

theorem pixelStep_opcode {s : State} (h : s.run = 0) (he : s.cur.toNat + 8 < s.len.toNat) : pixelStep s = opcodeResolved s := by
  simp [pixelStep, h, State.beforeChunkEnd, he]

/-- What a pixel step can answer: each branch gives a next state exactly when OUT has room, and else OutOverflow. -/
theorem pixelStep_cases (s : State) :
    (¬ s.RoomForPixel ∧ pixelStep s = .fault .outOverflow) ∨
    (s.RoomForPixel ∧
      ((s.run ≠ 0 ∧ pixelStep s = .next (s.setRun (s.run - 1)).afterPixel) ∨
       (s.run = 0 ∧ s.cur.toNat + 8 < s.len.toNat ∧ ∃ i,
          decode (s.inMem.bytes s.cur.toNat (opLength (classify (s.inMem.read s.cur.toNat)))) = .ok i [] ∧
          pixelStep s = .next (afterExec i s).cacheUpdate.afterPixel) ∨
       (s.run = 0 ∧ ¬ s.cur.toNat + 8 < s.len.toNat ∧ pixelStep s = .next s.afterPixel))) := by
  by_cases hr : s.run = 0
  · by_cases he : s.cur.toNat + 8 < s.len.toNat
    · obtain ⟨i, hd, hx⟩ := opcodeResolved_eq he
      rw [pixelStep_opcode hr he, hx]
      by_cases hroom : s.RoomForPixel
      · exact Or.inr ⟨hroom, Or.inr (Or.inl ⟨hr, he, i, hd, exec_room i hroom⟩)⟩
      · exact Or.inl ⟨hroom, exec_noRoom i hroom⟩
    · rw [pixelStep_tail hr he]
      by_cases hroom : s.RoomForPixel
      · exact Or.inr ⟨hroom, Or.inr (Or.inr ⟨hr, he, finishPixel_room hroom⟩)⟩
      · exact Or.inl ⟨hroom, finishPixel_noRoom hroom⟩
  · rw [pixelStep_run hr]
    have hc : (s.setRun (s.run - 1)).RoomForPixel ↔ s.RoomForPixel := roomForPixel_congr rfl rfl rfl
    by_cases hroom : s.RoomForPixel
    · exact Or.inr ⟨hroom, Or.inl ⟨hr, finishPixel_room (hc.2 hroom)⟩⟩
    · exact Or.inl ⟨hroom, finishPixel_noRoom (by rwa [hc])⟩

/-- A pixel step that answers is the common end of a state that differs from the one before in PREV, RUN, CUR and CACHE only. -/
theorem pixelStep_frame {s t : State} (h : pixelStep s = .next t) :
    s.RoomForPixel ∧ ∃ v : State, t = v.afterPixel ∧
      v = { s with prev := v.prev, run := v.run, cur := v.cur, cache := v.cache } := by
  rcases pixelStep_cases s with ⟨-, h'⟩ | ⟨hr, ⟨-, h'⟩ | ⟨-, -, i, -, h'⟩ | ⟨-, -, h'⟩⟩ <;> rw [h'] at h
  · cases h
  · injection h with h; exact ⟨hr, _, h.symm, rfl⟩
  · injection h with h; exact ⟨hr, _, h.symm, by cases i <;> rfl⟩
  · injection h with h; exact ⟨hr, _, h.symm, rfl⟩

/-! ### The header step -/

/-- The header fields of R102, from the bytes of IN. -/
def State.headerFields (s : State) : HeaderFields :=
  { magic := beValue (s.inMem.bytes 0 4), w := beValue (s.inMem.bytes 4 4), h := beValue (s.inMem.bytes 8 4),
    ch := beValue (s.inMem.bytes 12 1), cs := beValue (s.inMem.bytes 13 1) }

theorem readHeader_eq {s : State} (h : 14 ≤ s.len.toNat) : readHeader s = some s.headerFields := by
  unfold readHeader
  rw [readIn_inBounds (by omega), readIn_inBounds (by omega), readIn_inBounds (by omega), readIn_inBounds (by omega),
    readIn_inBounds (by omega)]
  rfl

/-- The header step always answers a next state: a failing check, or a passing one. -/
theorem headerStep_cases (s : State) :
    (s.len.toNat < 14 ∧ headerStep s = .next (s.enterFail .bufferTooShort)) ∨
    (14 ≤ s.len.toNat ∧ headerError s.headerFields ≠ .none ∧ headerStep s = .next (s.enterFail (headerError s.headerFields))) ∨
    (14 ≤ s.len.toNat ∧ headerError s.headerFields = .none ∧ headerStep s = .next (s.loadHeader s.headerFields).headerPassed) := by
  by_cases hl : s.len.toNat < 14
  · exact Or.inl ⟨hl, by simp [headerStep, headerBytes, hl]⟩
  · have hl' : 14 ≤ s.len.toNat := by omega
    cases he : headerError s.headerFields <;> simp [headerStep, headerBytes, hl, hl', readHeader_eq hl', he]

/-- Which headers pass (R103 to R107). -/
theorem headerError_none_iff (f : HeaderFields) :
    headerError f = .none ↔ f.magic = 0x716F6966 ∧ f.w ≠ 0 ∧ f.h ≠ 0 ∧ f.h < 400000000 / f.w ∧
      (f.ch = 3 ∨ f.ch = 4) ∧ (f.cs = 0 ∨ f.cs = 1) := by
  have hm : magicWord = 0x716F6966 := rfl
  unfold headerError dimensionsOk pixelsMax
  rw [hm]
  split
  · simp_all
  · split
    · simp_all
      intro h1 h2 h3 h4
      omega
    · split
      · simp_all
      · split <;> (simp_all; try omega)

theorem beValue_four_lt (m : Memory) (a : Nat) : beValue (m.bytes a 4) < 2 ^ 32 := by
  simp only [Memory.bytes, beValue, List.foldl]
  have h0 := (m.read a).isLt
  have h1 := (m.read (a + 1)).isLt
  have h2 := (m.read (a + 1 + 1)).isLt
  have h3 := (m.read (a + 1 + 1 + 1)).isLt
  omega

theorem beValue_one_lt (m : Memory) (a : Nat) : beValue (m.bytes a 1) < 2 ^ 8 := by
  simp only [Memory.bytes, beValue, List.foldl]
  have h0 := (m.read a).isLt
  omega

end Sys2Proof.Machine
end

