-- ==== Sys2Proof/Tests/Slice0.lean ====
section
/-! SUPPORT. The model's own tests. Expected values come from the spec: the encodings of 30_encoding.md R80 and R91, the examples of
43_opcodes.md and the vectors of 95_test_vectors.md, whose ids the docstrings name. Then one witness per statement with hypotheses. -/

namespace Sys2Proof.Tests

open Sys2Proof.Machine

/-! ### WellFormed refuses each kind of ill-formed term -/

theorem test_index_64_is_illformed : (Instr.index 64).wellFormed = false := by decide
theorem test_diff_red_low_is_illformed : (Instr.diff (-3) 0 0).wellFormed = false := by decide
theorem test_diff_green_high_is_illformed : (Instr.diff 0 2 0).wellFormed = false := by decide
theorem test_diff_blue_low_is_illformed : (Instr.diff 0 0 (-3)).wellFormed = false := by decide
theorem test_luma_green_high_is_illformed : (Instr.luma 32 0 0).wellFormed = false := by decide
theorem test_luma_green_low_is_illformed : (Instr.luma (-33) 0 0).wellFormed = false := by decide
theorem test_luma_red_high_is_illformed : (Instr.luma 0 8 0).wellFormed = false := by decide
theorem test_luma_blue_low_is_illformed : (Instr.luma 0 0 (-9)).wellFormed = false := by decide
theorem test_run_62_is_illformed : (Instr.run 62).wellFormed = false := by decide

/-! ### Decoding, from words written out bit by bit (R80) -/

theorem test_decode_rgb : decode [0b11111110, 0b00001010, 0b00010100, 0b00011110] = .ok (.rgb 10 20 30) [] := by decide
theorem test_decode_rgba : decode [0b11111111, 1, 2, 3, 4, 9] = .ok (.rgba 1 2 3 4) [9] := by decide
theorem test_decode_index : decode [0b00110101] = .ok (.index 53) [] := by decide
theorem test_decode_diff : decode [0b01011011] = .ok (.diff (-1) 0 1) [] := by decide
theorem test_decode_luma : decode [0b10101000, 0b01101011] = .ok (.luma 8 (-2) 3) [] := by decide
theorem test_decode_run : decode [0b11111101] = .ok (.run 61) [] := by decide
theorem test_decode_rgb_without_data : decode [0xFE, 1, 2] = .rejected (.missingData .rgb) := by decide
theorem test_decode_nothing : decode [] = .rejected .noOpcodeByte := by decide
/-- P3's encodings (R91). -/
theorem test_encode_luma : encode (.luma 8 (-2) 3) = [0xA8, 0x6B] := by decide
theorem test_encode_diff : encode (.diff (-1) 0 1) = [0x5B] := by decide
theorem test_encode_run : encode (.run 2) = [0xC2] := by decide
theorem test_encode_index : encode (.index 53) = [0x35] := by decide
/-- The opcode table's numbering: the first byte is the low one. -/
theorem test_table_word : decodeTableWord 32 0x1E140AFE = some (.rgb 10 20 30) := by decide
theorem test_table_word_short : decodeTableWord 8 0xFE = some (.rgb 0 0 0) := by decide

/-! ### Colour arithmetic (AR and HS vectors) -/

theorem test_add8_wraps_down : add8 5 (-40) = 221 := by decide
theorem test_add8_wraps_up : add8 250 10 = 4 := by decide
theorem test_sub8_wraps : sub8 3 5 = 254 := by decide
theorem test_hash_hs10 : (hash { r := 100, g := 150, b := 200, a := 255 }).val = 7 := by decide
theorem test_hash_hs11 : (hash { r := 100, g := 150, b := 200, a := 128 }).val = 18 := by decide

/-! ### One pixel step -/

/-- A decode under way: `stream` lies at CUR = 14, an END marker behind it, the image is 4×1 with `ch` channels. -/
def pixelState (stream : List Byte) (ch : Byte) (prev : Color) : State :=
  { State.reset with
    prev := prev
    cur := 14
    width := 4
    height := 1
    channels := ch
    len := BitVec.ofNat 32 (22 + stream.length)
    seq := .pixels
    valid := true
    inMem := Memory.writeBytes [] 14 stream
    outBytes := 16 }

/-- What a test looks at after a step. -/
def after (r : Result) (look : State → Bool) : Bool :=
  match r with
  | .next t => look t
  | .fault _ => false
  | .refused _ => false

/-- R155's example. -/
theorem test_step_rgb : after (step (pixelState [0xFE, 0x0A, 0x14, 0x1E] 3 prevInit)) (fun t =>
    t.prev == ⟨10, 20, 30, 255⟩ && t.cur == 18 && t.slot 9 == ⟨10, 20, 30, 255⟩ && t.outMem.bytes 0 4 == [10, 20, 30, 0]) = true := by
  decide
/-- R156's example. -/
theorem test_step_rgba : after (step (pixelState [0xFF, 1, 2, 3, 4] 4 prevInit)) (fun t =>
    t.prev == ⟨1, 2, 3, 4⟩ && t.cur == 19 && t.slot 14 == ⟨1, 2, 3, 4⟩ && t.outMem.bytes 0 4 == [1, 2, 3, 4]) = true := by
  decide
/-- R157's example: INDEX 53 as the first opcode gives {0,0,0,0}. -/
theorem test_step_index : after (step (pixelState [0x35] 4 prevInit)) (fun t =>
    t.prev == ⟨0, 0, 0, 0⟩ && t.cur == 15 && t.slot 53 == ⟨0, 0, 0, 0⟩) = true := by
  decide
/-- R158's example. -/
theorem test_step_diff : after (step (pixelState [0x40] 4 prevInit)) (fun t =>
    t.prev == ⟨254, 254, 254, 255⟩ && t.cur == 15 && t.slot 23 == ⟨254, 254, 254, 255⟩) = true := by
  decide
/-- R159's example. -/
theorem test_step_luma : after (step (pixelState [0x80, 0x00] 4 prevInit)) (fun t =>
    t.prev == ⟨216, 224, 216, 255⟩ && t.cur == 16 && t.slot 5 == ⟨216, 224, 216, 255⟩) = true := by
  decide
/-- LU-5: wrap in both directions, red and blue apart. -/
theorem test_step_luma_wraps : after (step (pixelState [0x80, 0xF0] 3 ⟨5, 250, 128, 255⟩)) (fun t =>
    t.prev == ⟨236, 218, 88, 255⟩ && t.slot 35 == ⟨236, 218, 88, 255⟩) = true := by
  decide
/-- R160's example. -/
theorem test_step_run : after (step (pixelState [0xC2] 3 ⟨10, 20, 30, 255⟩)) (fun t =>
    t.prev == ⟨10, 20, 30, 255⟩ && t.run == 2 && t.cur == 15 && t.slot 9 == ⟨10, 20, 30, 255⟩ && t.pix == 1) = true := by
  decide
/-- PS-5: data bytes of an opcode at LEN − 9 come from the end-marker region. -/
theorem test_step_data_from_end_marker :
    after (step { pixelState [0xFF, 0x0A, 0x0B, 0x0C, 0x0D] 4 prevInit with len := 23 }) (fun t => t.prev == ⟨10, 11, 12, 13⟩) = true := by
  decide
/-- PS-6: the byte at LEN − 8 is never an opcode. -/
theorem test_step_end_marker_is_no_opcode :
    after (step { pixelState [0xFE, 0x10, 0x20, 0x30] 4 prevInit with len := 22 }) (fun t => t.prev == prevInit && t.cur == 14) = true := by
  decide
/-- The instruction placed by `withFetchWord` runs in the very next step. -/
theorem test_withFetchWord_runs : after (step (State.reset.withFetchWord 32 0x1E140AFE)) (fun t => t.prev == ⟨10, 20, 30, 0⟩) = true := by
  decide

/-! ### The header step (HV vectors) -/

/-- STATE = HEADER with `hdr` at IN address 0 and LEN = `len`. -/
def headerState (hdr : List Byte) (len : Word) (m : Mode) : State :=
  { State.reset with inMem := Memory.writeBytes [] 0 hdr, len := len, seq := .header, mode := m }

theorem test_header_directive : headerDirective 1 399999999 3 0 =
    [0x71, 0x6F, 0x69, 0x66, 0, 0, 0, 1, 0x17, 0xD7, 0x83, 0xFF, 3, 0] := by decide
/-- HV-1. -/
theorem test_header_too_short : after (step (headerState (headerDirective 1 1 3 0) 13 .decode)) (fun t =>
    t.seq == .fail && t.errcode == .bufferTooShort) = true := by decide
/-- HV-17 (a): three faults, the magic decides. -/
theorem test_header_bad_magic : after (step (headerState [0x51, 0x4F, 0x49, 0x46, 0, 0, 0, 0, 0, 0, 0, 1, 7, 0] 14 .decode)) (fun t =>
    t.seq == .fail && t.errcode == .badMagic) = true := by decide
/-- HV-8. -/
theorem test_header_bound : after (step (headerState (headerDirective 3 133333333 3 0) 14 .validate)) (fun t =>
    t.errcode == .badDimensions && !t.valid) = true := by decide
/-- HV-17 (c). -/
theorem test_header_bad_channels : after (step (headerState (headerDirective 1 1 7 9) 14 .decode)) (fun t =>
    t.errcode == .badChannels) = true := by decide
/-- HV-16. -/
theorem test_header_bad_colorspace : after (step (headerState (headerDirective 1 1 3 2) 14 .decode)) (fun t =>
    t.errcode == .badColorspace) = true := by decide
/-- HV-7 as a DECODE. -/
theorem test_header_passes : after (step (headerState (headerDirective 3 133333332 3 1) 14 .decode)) (fun t =>
    t.seq == .pixels && t.valid && t.width == 3 && t.height == 133333332 && t.prev == ⟨0, 0, 0, 255⟩ && t.cur == 14) = true := by decide

/-! ### The host's moves -/

/-- A host access of the whole word at an offset. -/
def word (offset : BitVec 6) : RegAccess := { offset := offset, size := 4 }

/-- The word the host gets when it reads offset `o` in `s`. -/
def reads (s : State) (o : BitVec 6) (d : Word) : Bool :=
  after (step { s with hostMoves := [.regRead (word o)] }) (fun t => t.hostData == d && t.hostMoves == [])

/-- R33, R35: every row of the map in a decode under way (STATE 2, VALID 1, BUSY 1). -/
theorem test_register_map : (reads (pixelState [0xC0] 3 prevInit) 0x00 0 && reads (pixelState [0xC0] 3 prevInit) 0x04 0b011010 &&
    reads (pixelState [0xC0] 3 prevInit) 0x08 0 && reads (pixelState [0xC0] 3 prevInit) 0x0C 23 &&
    reads (pixelState [0xC0] 3 prevInit) 0x10 4 && reads (pixelState [0xC0] 3 prevInit) 0x14 1 &&
    reads (pixelState [0xC0] 3 prevInit) 0x18 3 && reads (pixelState [0xC0] 3 prevInit) 0x1C 0 &&
    reads (pixelState [0xC0] 3 prevInit) 0x20 0 && reads (pixelState [0xC0] 3 prevInit) 0x24 0 &&
    reads (pixelState [0xC0] 3 prevInit) 0x3C 0) = true := by decide
/-- R34, R35: VALIDATE shows in STATUS[5]. -/
theorem test_validate_command : after (step { State.reset with hostMoves := [.regWrite (word 0) 2] }) (fun t =>
    t.seq == .header && t.mode == .validate && t.statusWord == 0b110001) = true := by decide
/-- R202: the host fills IN, then LEN. -/
theorem test_host_writes_len : after (step { State.reset with hostMoves := [.regWrite (word 0x0C) 26] }) (fun t => t.len == 26) = true := by
  decide
theorem test_host_writes_in : after (step { State.reset with hostMoves := [.inWrite 3 0x66] }) (fun t => t.inMem.read 3 == 0x66) = true := by
  decide
/-- R200: reset in the middle of a decode. -/
theorem test_reset_event : after (step { pixelState [0xC0] 3 prevInit with hostMoves := [.reset] }) (fun t =>
    t.seq == .idle && t.len == 0 && t.width == 0 && t.inMem == (pixelState [0xC0] 3 prevInit).inMem) = true := by decide

/-! ### Witnesses: for each statement with hypotheses, states and operands that meet them -/

/-- The state the witnesses use: an RGB at CUR in a 4×1 four-channel decode. -/
def wRgb : State := pixelState [0xFE, 0x0A, 0x14, 0x1E] 4 prevInit
/-- A pending run of 3. -/
def wRun : State := { pixelState [0xC0] 4 prevInit with run := 3 }
/-- The stream exhausted. -/
def wTail : State := pixelState [] 4 prevInit
/-- A header that passes. -/
def wHeader (m : Mode) : State := headerState (headerDirective 1 1 4 0) 14 m

theorem self_turn (s : State) (h : s.hostMoves = []) : BlockTurn s s := Or.inl ⟨h, rfl⟩

theorem wait_turn (s : State) (ms : List HostMove) (h : s.hostMoves = ms) : BlockTurn { s with hostMoves := .wait :: ms } s :=
  Or.inr ⟨ms, rfl, by subst h; rfl⟩

theorem host_turn (m : HostMove) (s : State) : HostTurn m { s with hostMoves := m :: s.hostMoves } s := ⟨s.hostMoves, rfl, rfl⟩

/-- A decode under way, with any stream of at most five bytes and 3 or 4 channels, meets the machine's invariant. -/
theorem pixelState_inv (stream : List Byte) (ch : Byte) (prev : Color) (hc : ch = 3 ∨ ch = 4)
    (hl : stream.length ≤ 5) (hw : (Memory.writeBytes [] 14 stream).wf = true)
    (hr : ∀ c ∈ Memory.writeBytes [] 14 stream, c.1 < 2 ^ 32) : (pixelState stream ch prev).Inv where
  inWf := hw
  outWf := rfl
  inRange := hr
  outRange := by intro c hc; cases hc
  idle := by intro h; cases h
  header := by intro h; cases h
  pixels := fun _ =>
    { good := ⟨(by decide : (4 : Word) ≠ 0), (by decide : (1 : Word) ≠ 0),
        (by decide : (1 : Word).toNat < 400000000 / (4 : Word).toNat), hc, Or.inl rfl⟩
      passed := ⟨rfl, rfl, rfl⟩
      pixBound := (by decide : 0 < 4)
      lenBound := by simp only [pixelState, BitVec.toNat_ofNat]; omega
      curLow := Nat.le_refl 14
      curHigh := Or.inl rfl
      runBound := Nat.zero_le 61 }
  done := by intro h; cases h
  fail := by intro h; cases h

theorem wRgb_inv : wRgb.Inv := pixelState_inv _ _ _ (Or.inr rfl) (by decide) (by decide) (by decide)
theorem wTail_inv : wTail.Inv := pixelState_inv _ _ _ (Or.inr rfl) (by decide) (by decide) (by decide)

/-- A header state with a canonical IN meets the invariant. -/
theorem wHeader_inv (m : Mode) : (wHeader m).Inv where
  inWf := (by decide : (wHeader .decode).inMem.wf = true)
  outWf := rfl
  inRange := (by decide : ∀ c ∈ (wHeader .decode).inMem, c.1 < 2 ^ 32)
  outRange := by intro c hc; cases hc
  idle := by intro h; cases h
  header := fun _ => ⟨rfl, rfl, rfl⟩
  pixels := by intro h; cases h
  done := by intro h; cases h
  fail := by intro h; cases h

theorem wRgb_fetch : FetchesAtCur wRgb [0xFE, 0x0A, 0x14, 0x1E] := ⟨rfl, rfl, by decide, by decide⟩
theorem wRgb_room : wRgb.RoomForPixel := (by decide : 0 * 4 + 4 ≤ 16)

theorem witness_DecodeOfEncodeReturnsTheInstruction :
    (Instr.index 63).wellFormed = true ∧ (Instr.diff (-2) 1 (-2)).wellFormed = true ∧ (Instr.luma (-32) 7 (-8)).wellFormed = true ∧
    (Instr.luma 31 (-8) 7).wellFormed = true ∧ (Instr.run 61).wellFormed = true ∧ (Instr.rgb 0 255 0).wellFormed = true ∧
    (Instr.rgba 255 0 255 0).wellFormed = true := by decide

theorem witness_DecodedInstructionEncodesToTheBytesRead : decode [0xFD, 7] = .ok (.run 61) [7] := by decide

theorem witness_ClassifyFollowsTheMaskAndMatchTable : classify 0xC0 = .run ∧ classify 0xFD = .run := by decide

theorem witness_HashDependsOnLowSixBitsOnly : 6 ≤ 6 ∧ 6 ≤ 8 := by decide

theorem witness_PixelBoundAndItsBoundaryCases :
    200000000 < 200000001 ∧ 200000001 ≤ 400000000 ∧ 400000000 < 400000001 ∧
    HeaderFields.magic ⟨0x716F6966, 3, 133333333, 3, 0⟩ = 0x716F6966 ∧ dimensionsOk 3 133333333 = false := by decide

theorem witness_EveryOpcodeByteDecodesWithItsLength :
    opLength (classify 0xFF) ≤ [1, 2, 3, (4 : Byte)].length + 1 ∧ [1, 2, (3 : Byte)].length + 1 < opLength (classify 0xFF) := by decide

theorem witness_RgbSetsThreeChannelsAndKeepsAlpha :
    wRgb.RoomForPixel ∧ BlockTurn wRgb wRgb ∧ FetchesAtCur wRgb [0xFE, 0x0A, 0x14, 0x1E] :=
  ⟨wRgb_room, self_turn _ rfl, wRgb_fetch⟩

theorem witness_RgbaSetsAllFourChannels :
    (pixelState [0xFF, 1, 2, 3, 4] 4 prevInit).RoomForPixel ∧
    BlockTurn { pixelState [0xFF, 1, 2, 3, 4] 4 prevInit with hostMoves := [.wait] } (pixelState [0xFF, 1, 2, 3, 4] 4 prevInit) ∧
    FetchesAtCur (pixelState [0xFF, 1, 2, 3, 4] 4 prevInit) [0xFF, 1, 2, 3, 4] :=
  ⟨(by decide : 0 * 4 + 4 ≤ 16), wait_turn _ [] rfl, rfl, rfl, by decide, by decide⟩

theorem witness_IndexLoadsTheColourOfItsSlot :
    (pixelState [0x3F] 3 prevInit).RoomForPixel ∧ BlockTurn (pixelState [0x3F] 3 prevInit) (pixelState [0x3F] 3 prevInit) ∧
    FetchesAtCur (pixelState [0x3F] 3 prevInit) [0b00#2 ++ BitVec.ofNat 6 63] :=
  ⟨(by decide : 0 * 3 + 3 ≤ 16), self_turn _ rfl, rfl, rfl, by decide, by decide⟩

theorem witness_DiffAddsThreeBiasedDeltas :
    (pixelState [0x5B] 3 prevInit).RoomForPixel ∧ BlockTurn (pixelState [0x5B] 3 prevInit) (pixelState [0x5B] 3 prevInit) ∧
    FetchesAtCur (pixelState [0x5B] 3 prevInit) [0b01#2 ++ 0b01#2 ++ 0b10#2 ++ 0b11#2] :=
  ⟨(by decide : 0 * 3 + 3 ≤ 16), self_turn _ rfl, rfl, rfl, by decide, by decide⟩

theorem witness_LumaAddsGreenDeltaToAllChannels :
    (pixelState [0xA8, 0x6B] 3 prevInit).RoomForPixel ∧
    BlockTurn (pixelState [0xA8, 0x6B] 3 prevInit) (pixelState [0xA8, 0x6B] 3 prevInit) ∧
    FetchesAtCur (pixelState [0xA8, 0x6B] 3 prevInit) [0b10#2 ++ 0b101000#6, 0b0110#4 ++ 0b1011#4] :=
  ⟨(by decide : 0 * 3 + 3 ≤ 16), self_turn _ rfl, rfl, rfl, by decide, by decide⟩

theorem witness_RunStoresTheRepeatCount :
    (61 : BitVec 6).toNat ≤ 61 ∧ (pixelState [0xFD] 3 prevInit).RoomForPixel ∧
    BlockTurn (pixelState [0xFD] 3 prevInit) (pixelState [0xFD] 3 prevInit) ∧
    FetchesAtCur (pixelState [0xFD] 3 prevInit) [0b11#2 ++ (61 : BitVec 6)] :=
  ⟨by decide, (by decide : 0 * 3 + 3 ≤ 16), self_turn _ rfl, rfl, rfl, by decide, by decide⟩

/-- Every opcode answers a next state from `wRgb`: the hypothesis of the four frame statements. -/
theorem witness_exec_answers_next :
    (∃ t, exec (.rgb 1 2 3) wRgb = .next t) ∧ (∃ t, exec (.rgba 1 2 3 4) wRgb = .next t) ∧ (∃ t, exec (.index 63) wRgb = .next t) ∧
    (∃ t, exec (.diff (-2) 1 0) wRgb = .next t) ∧ (∃ t, exec (.luma 31 7 (-8)) wRgb = .next t) ∧
    (∃ t, exec (.run 61) wRgb = .next t) :=
  ⟨⟨_, rfl⟩, ⟨_, rfl⟩, ⟨_, rfl⟩, ⟨_, rfl⟩, ⟨_, rfl⟩, ⟨_, rfl⟩⟩

theorem witness_OpcodesLeaveOtherRegistersUnchanged : ∃ t, exec (.rgb 1 2 3) wRgb = .next t := ⟨_, rfl⟩
theorem witness_OpcodesWriteExactlyOneCacheSlot : ∃ t, exec (.index 63) wRgb = .next t := ⟨_, rfl⟩
theorem witness_OpcodesStoreOnlyTheirPixelSlot : wRgb.outMem.wf = true ∧ ∃ t, exec (.diff 0 0 1) wRgb = .next t := ⟨rfl, _, rfl⟩

/-- One byte short: 3 bytes of OUT, 4 channels. -/
theorem witness_NoRoomInOutIsOutOverflow :
    ¬ State.RoomForPixel { wRgb with outBytes := 3 } ∧ BlockTurn { wRgb with outBytes := 3 } { wRgb with outBytes := 3 } ∧
    State.seq { wRgb with outBytes := 3 } = .pixels :=
  ⟨(by decide : ¬ 0 * 4 + 4 ≤ 3), self_turn _ rfl, rfl⟩

theorem witness_StepExecutesTheInstructionAtCur :
    BlockTurn { wRgb with hostMoves := [.wait] } wRgb ∧ (Instr.rgb 10 20 30).wellFormed = true ∧
    FetchesAtCur wRgb (encode (.rgb 10 20 30)) :=
  ⟨wait_turn _ [] rfl, rfl, wRgb_fetch⟩

theorem witness_RunContinuationRepeatsThePixel :
    BlockTurn wRun wRun ∧ wRun.seq = .pixels ∧ wRun.run ≠ 0 ∧ wRun.RoomForPixel ∧ wRun.outMem.wf = true :=
  ⟨self_turn _ rfl, rfl, by decide, (by decide : 0 * 4 + 4 ≤ 16), rfl⟩

theorem witness_TailFillRepeatsThePixel :
    BlockTurn wTail wTail ∧ wTail.seq = .pixels ∧ wTail.run = 0 ∧ wTail.len.toNat ≤ wTail.cur.toNat + 8 ∧ wTail.RoomForPixel ∧
    wTail.outMem.wf = true :=
  ⟨self_turn _ rfl, rfl, rfl, by decide, (by decide : 0 * 4 + 4 ≤ 16), rfl⟩

/-- The last pixel and one before the last. -/
theorem witness_PixelStepCompletesAtTheLastPixel :
    (∃ t, step { wTail with pix := 3 } = .next t ∧ t.pix.toNat = State.npix { wTail with pix := 3 }) ∧
    (∃ t, step { wTail with pix := 2 } = .next t ∧ t.pix.toNat ≠ State.npix { wTail with pix := 2 }) ∧
    BlockTurn { wTail with pix := 3 } { wTail with pix := 3 } ∧ State.seq { wTail with pix := 3 } = .pixels :=
  ⟨⟨_, rfl, by decide⟩, ⟨_, rfl, by decide⟩, self_turn _ rfl, rfl⟩

theorem witness_EveryPixelStepEmitsPrev :
    BlockTurn wRgb wRgb ∧ wRgb.seq = .pixels ∧ wRgb.outMem.wf = true ∧ ∃ t, step wRgb = .next t := ⟨self_turn _ rfl, rfl, rfl, _, rfl⟩

theorem witness_EmittedPixelsAreFinal :
    State.seq { wTail with pix := 1 } = .pixels ∧ (∃ t, step { wTail with pix := 1 } = .next t) ∧
    3 < (State.pix { wTail with pix := 1 }).toNat * (State.channels { wTail with pix := 1 }).toNat :=
  ⟨rfl, ⟨_, rfl⟩, by decide⟩

theorem witness_IndexOfTheSlotJustWritten :
    ∃ t v, exec (.rgb 1 2 3) wRgb = .next t ∧ exec (.index (hash t.prev).val) t = .next v := ⟨_, _, rfl, rfl⟩

theorem witness_IndexOfAnUnwrittenSlotWritesSlotZero :
    wRgb.slot 5 = cacheInit ∧ ∃ t, exec (.index 5) wRgb = .next t := ⟨by decide, _, rfl⟩

/-- A run of 3 at the first of four pixels: it ends with the image. A run of 2 ends before it. -/
theorem witness_RunYieldsCountPlusOnePixels :
    (pixelState [0xC3] 4 prevInit).Inv ∧ (pixelState [0xC3] 4 prevInit).hostMoves = [] ∧ (3 : BitVec 6).toNat ≤ 61 ∧
    FetchesAtCur (pixelState [0xC3] 4 prevInit) [0b11#2 ++ (3 : BitVec 6)] ∧
    (pixelState [0xC3] 4 prevInit).pix.toNat + (3 : BitVec 6).toNat < (pixelState [0xC3] 4 prevInit).npix ∧
    (pixelState [0xC3] 4 prevInit).outLen ≤ (pixelState [0xC3] 4 prevInit).outBytes ∧
    FetchesAtCur (pixelState [0xC2] 4 prevInit) [0b11#2 ++ (2 : BitVec 6)] :=
  ⟨pixelState_inv _ _ _ (Or.inr rfl) (by decide) (by decide) (by decide), rfl, by decide, ⟨rfl, rfl, by decide, by decide⟩, by decide,
    by decide, ⟨rfl, rfl, by decide, by decide⟩⟩

theorem witness_TailFillFillsTheRestOfTheImage :
    wTail.Inv ∧ wTail.hostMoves = [] ∧ wTail.seq = .pixels ∧ wTail.run = 0 ∧ wTail.len.toNat ≤ wTail.cur.toNat + 8 ∧
    wTail.outLen ≤ wTail.outBytes :=
  ⟨wTail_inv, rfl, rfl, rfl, by decide, by decide⟩

theorem witness_PixelStageReachesDone :
    wRgb.Inv ∧ wRgb.hostMoves = [] ∧ wRgb.seq = .pixels ∧ wRgb.outLen ≤ wRgb.outBytes ∧ 3 < wRgb.npix - wRgb.pix.toNat :=
  ⟨wRgb_inv, rfl, rfl, by decide, by decide⟩

theorem witness_EveryCommandTerminates :
    (wHeader .decode).Inv ∧ (wHeader .decode).hostMoves = [] ∧ (wHeader .decode).seq = .header ∧ 1599999996 ≤ (wHeader .decode).outBytes :=
  ⟨wHeader_inv _, rfl, rfl, by decide⟩

/-- Two header states with different datapath registers and OUT contents, and a step of the first that answers. -/
theorem witness_ResultDependsOnTheInputAlone :
    (wHeader .decode).Inv ∧ State.Inv { wHeader .decode with run := 9, prev := ⟨1, 2, 3, 4⟩, draws := 7 } ∧
    (wHeader .decode).hostMoves = [] ∧ (wHeader .decode).seq = .header ∧
    SameInput (wHeader .decode) { wHeader .decode with run := 9, prev := ⟨1, 2, 3, 4⟩, draws := 7 } ∧
    ∃ t, runSteps (0 + 1) (wHeader .decode) = .next t := by
  have h := wHeader_inv .decode
  exact ⟨h, ⟨h.inWf, h.outWf, h.inRange, h.outRange, h.idle, h.header, (by intro hp; cases hp),
    (by intro hp; cases hp), h.fail⟩, rfl, rfl,
    ⟨rfl, rfl, rfl, fun _ _ => rfl⟩, _, rfl⟩

theorem witness_HeaderStepReportsTheFirstFailingCheck :
    BlockTurn (wHeader .decode) (wHeader .decode) ∧ (wHeader .decode).seq = .header ∧ (wHeader .decode).errcode = .none :=
  ⟨self_turn _ rfl, rfl, rfl⟩

theorem witness_PassingHeaderLoadsTheRegisters :
    BlockTurn (headerState (headerDirective 200000000 1 4 1) 14 .decode) (headerState (headerDirective 200000000 1 4 1) 14 .decode) ∧
    14 ≤ (headerState (headerDirective 200000000 1 4 1) 14 .decode).len.toNat ∧
    (headerState (headerDirective 200000000 1 4 1) 14 .decode).inMem.bytes 0 14 = headerDirective 200000000 1 4 1 ∧
    (1 : Word).toNat < 400000000 / (200000000 : Word).toNat ∧
    (headerState (headerDirective 1 399999999 3 0) 14 .validate).inMem.bytes 0 14 = headerDirective 1 399999999 3 0 ∧
    (399999999 : Word).toNat < 400000000 / (1 : Word).toNat :=
  ⟨self_turn _ rfl, by decide, by decide, by decide, by decide, by decide⟩

theorem witness_ErrorEntryChangesOnlyStatusAndHeader :
    ∃ t, step (headerState (headerDirective 1 1 4 0) 13 .decode) = .next t ∧ t.seq = .fail := ⟨_, rfl, rfl⟩

theorem witness_ValidateAgreesWithDecode :
    (wHeader .decode).hostMoves = [] ∧ (wHeader .decode).seq = .header ∧ (wHeader .decode).valid = false ∧
    (wHeader .decode).errcode = .none := ⟨rfl, rfl, rfl, rfl⟩

theorem witness_PassingHeaderBoundsTheImage :
    wRgb.HeaderGood ∧ State.HeaderGood { wRgb with width := 1, height := 399999999, channels := 4 } :=
  ⟨⟨by decide, by decide, by decide, Or.inr rfl, Or.inl rfl⟩, ⟨by decide, by decide, by decide, Or.inr rfl, Or.inl rfl⟩⟩

theorem witness_CommandStepStartsTheHeaderStage :
    HostTurn (.regWrite { offset := 0x00, size := 4 } 1) { State.reset with hostMoves := [.regWrite (word 0) 1] } State.reset ∧
    HostTurn (.regWrite { offset := 0x00, size := 4 } 2) { State.reset with hostMoves := [.regWrite (word 0) 2] } State.reset ∧
    State.reset.busy = false :=
  ⟨host_turn _ _, host_turn _ _, rfl⟩

theorem witness_OtherCommandWritesAreIgnored :
    HostTurn (.regWrite { offset := 0x00, size := 4 } 3) { State.reset with hostMoves := [.regWrite (word 0) 3] } State.reset ∧
    HostTurn (.regWrite { offset := 0x00, size := 4 } 1) { wRgb with hostMoves := [.regWrite (word 0) 1] } wRgb ∧ wRgb.seq = .pixels :=
  ⟨host_turn _ _, host_turn _ _, rfl⟩

theorem witness_RegisterWritesOutsideCmd :
    HostTurn (.regWrite { offset := 0x0C, size := 4 } 26) { State.reset with hostMoves := [.regWrite (word 0x0C) 26] } State.reset ∧
    State.reset.busy = false ∧ HostTurn (.regWrite { offset := 0x0C, size := 4 } 26) { wRgb with hostMoves := [.regWrite (word 0x0C) 26] } wRgb ∧
    wRgb.busy = true ∧ HostTurn (.regWrite { offset := 0x3C, size := 4 } 26) { wRgb with hostMoves := [.regWrite (word 0x3C) 26] } wRgb ∧
    (0x3C : BitVec 6).toNat % 4 = 0 ∧ (0x0C : BitVec 6).toNat % 4 = 0 :=
  ⟨host_turn _ _, rfl, host_turn _ _, rfl, host_turn _ _, by decide, by decide⟩

/-- Each row of the map and the first and last reserved offset are aligned; their values are in `test_register_map`. -/
theorem witness_RegisterReadsReturnTheMap :
    HostTurn (.regRead { offset := 0x24, size := 4 }) { wRgb with hostMoves := [.regRead (word 0x24)] } wRgb ∧
    ([0x00, 0x04, 0x08, 0x0C, 0x10, 0x14, 0x18, 0x1C, 0x20, 0x24, 0x3C] : List (BitVec 6)).all (fun o => o.toNat % 4 == 0) = true :=
  ⟨host_turn _ _, by decide⟩

theorem witness_SubWordAndMisalignedAccessesAreRefused :
    HostTurn (.regWrite { offset := 0x0C, size := 1 } 26) { State.reset with hostMoves := [.regWrite ⟨0x0C, 1⟩ 26] } State.reset ∧
    HostTurn (.regRead { offset := 0x02, size := 4 }) { State.reset with hostMoves := [.regRead ⟨0x02, 4⟩] } State.reset ∧
    (0x02 : BitVec 6).toNat % 4 ≠ 0 :=
  ⟨host_turn _ _, host_turn _ _, by decide⟩

theorem witness_HostMemoryWrites :
    State.reset.inMem.wf = true ∧ State.reset.outMem.wf = true ∧
    HostTurn (.inWrite 0xFFFFFFFF 1) { State.reset with hostMoves := [.inWrite 0xFFFFFFFF 1] } State.reset ∧ State.reset.busy = false ∧
    HostTurn (.inWrite 0 1) { wRgb with hostMoves := [.inWrite 0 1] } wRgb ∧
    HostTurn (.outWrite 15 1) { wRgb with hostMoves := [.outWrite 15 1] } wRgb ∧ wRgb.busy = true ∧
    HostTurn (.outWrite 1599999995 1) { State.reset with hostMoves := [.outWrite 1599999995 1] } State.reset ∧
    (1599999995 : Word).toNat < State.reset.outBytes ∧
    HostTurn (.outWrite 1599999996 1) { State.reset with hostMoves := [.outWrite 1599999996 1] } State.reset ∧
    State.reset.outBytes ≤ (1599999996 : Word).toNat :=
  ⟨rfl, rfl, host_turn _ _, rfl, host_turn _ _, host_turn _ _, rfl, host_turn _ _, by decide, host_turn _ _, by decide⟩

theorem witness_HostReadsOfOutAndIrq :
    HostTurn (.outRead 15) { wRgb with hostMoves := [.outRead 15] } wRgb ∧ (15 : Word).toNat < wRgb.outBytes ∧
    HostTurn .irqSample { wRgb with hostMoves := [.irqSample] } wRgb :=
  ⟨host_turn _ _, by decide, host_turn _ _⟩

theorem witness_ResetEventClearsTheRegisters : HostTurn .reset { wRgb with hostMoves := [.reset] } wRgb := host_turn _ _

theorem witness_QuiescentStatesWaitForTheHost : BlockTurn State.reset State.reset ∧ State.reset.seq = .idle := ⟨self_turn _ rfl, rfl⟩

theorem witness_EveryStepKeepsTheInvariant : wRgb.Inv ∧ ∃ t, step wRgb = .next t := ⟨wRgb_inv, _, rfl⟩

theorem witness_EveryStepKeepsTheCacheInvariant : wRgb.CacheInv ∧ ∃ t, step wRgb = .next t :=
  ⟨fun _ i => Or.inl (by revert i; decide), _, rfl⟩

theorem witness_ImpossibleFaultsAreUnreachable : step { wRgb with outBytes := 3 } = .fault .outOverflow := rfl

theorem witness_StateChangesOnlyAlongTheTable :
    (∃ t, step { wTail with pix := 3 } = .next t ∧ t.seq ≠ State.seq { wTail with pix := 3 }) ∧
    (∃ t, step (wHeader .validate) = .next t ∧ t.seq ≠ (wHeader .validate).seq) :=
  ⟨⟨_, rfl, by decide⟩, ⟨_, rfl, by decide⟩⟩

theorem witness_HeaderStepLeavesHeader : BlockTurn (wHeader .decode) (wHeader .decode) ∧ (wHeader .decode).seq = .header :=
  ⟨self_turn _ rfl, rfl⟩

theorem witness_CursorOnlyMovesForward : BlockTurn wRgb wRgb ∧ wRgb.seq = .pixels ∧ ∃ t, step wRgb = .next t := ⟨self_turn _ rfl, rfl, _, rfl⟩

theorem witness_BlockNeverWritesInOrLen : BlockTurn wRgb wRgb ∧ ∃ t, step wRgb = .next t := ⟨self_turn _ rfl, _, rfl⟩

theorem witness_HeaderStepWritesNoOut :
    BlockTurn (wHeader .validate) (wHeader .validate) ∧ (wHeader .validate).seq ≠ .pixels ∧
    ∃ t, step (wHeader .validate) = .next t ∧ t.seq ≠ .pixels :=
  ⟨self_turn _ rfl, by decide, _, rfl, by decide⟩

theorem witness_HostMovesLeaveTheDatapathAlone :
    HostTurn .irqSample { wRgb with hostMoves := [.irqSample] } wRgb ∧ wRgb.busy = true ∧
    ∃ t, step { wRgb with hostMoves := [.irqSample] } = .next t :=
  ⟨host_turn _ _, rfl, _, rfl⟩

end Sys2Proof.Tests
end

section
/-! SUPPORT. The two top bits of an opcode byte, which R87 tests, in the field form and in the mask and match form; then O4. -/

namespace Sys2Proof

/-! ### The two top bits: as a field, as a slice, under the mask 0xC0 -/

theorem extractLsb'_eq_ofNat_iff (b : Byte) (lo w k : Nat) (hk : k < 2 ^ w) :
    b.extractLsb' lo w = BitVec.ofNat w k ↔ bitField b lo w = k := by
  rw [← BitVec.toNat_inj, BitVec.extractLsb'_toNat, BitVec.toNat_ofNat, Nat.shiftRight_eq_div_pow, Nat.mod_eq_of_lt hk, bitField]

theorem and_topMask_eq (b : Byte) : b &&& 0xC0 = BitVec.ofNat 8 (bitField b 6 2 * 64) := by
  revert b; decide

theorem and_topMask_eq_ofNat_iff (b : Byte) (k : Nat) (hk : k < 4) :
    b &&& 0xC0 = BitVec.ofNat 8 (k * 64) ↔ bitField b 6 2 = k := by
  have hb : bitField b 6 2 < 4 := bitField_lt b 6 2
  rw [and_topMask_eq, ← BitVec.toNat_inj, BitVec.toNat_ofNat, BitVec.toNat_ofNat]
  omega

/-! ### Classify in the forms R87 gives -/

theorem classify_eq_of_slice (b1 : Byte) : classify b1 =
    if b1 = 0xFE then .rgb else if b1 = 0xFF then .rgba else if b1.extractLsb' 6 2 = 0b00#2 then .index
    else if b1.extractLsb' 6 2 = 0b01#2 then .diff else if b1.extractLsb' 6 2 = 0b10#2 then .luma else .run := by
  simp only [classify, extractLsb'_eq_ofNat_iff b1 6 2 _ (by decide : 0 < 2 ^ 2),
    extractLsb'_eq_ofNat_iff b1 6 2 _ (by decide : 1 < 2 ^ 2), extractLsb'_eq_ofNat_iff b1 6 2 _ (by decide : 2 < 2 ^ 2)]

theorem classify_eq_of_mask (b1 : Byte) : classify b1 =
    if b1 &&& 0xFF = 0xFE then .rgb else if b1 &&& 0xFF = 0xFF then .rgba else if b1 &&& 0xC0 = 0x00 then .index
    else if b1 &&& 0xC0 = 0x40 then .diff else if b1 &&& 0xC0 = 0x80 then .luma else .run := by
  have hfull : b1 &&& 0xFF = b1 := BitVec.and_allOnes
  have h0 : b1 &&& 0xC0 = 0x00 ↔ bitField b1 6 2 = 0 := and_topMask_eq_ofNat_iff b1 0 (by decide)
  have h1 : b1 &&& 0xC0 = 0x40 ↔ bitField b1 6 2 = 1 := and_topMask_eq_ofNat_iff b1 1 (by decide)
  have h2 : b1 &&& 0xC0 = 0x80 ↔ bitField b1 6 2 = 2 := and_topMask_eq_ofNat_iff b1 2 (by decide)
  simp only [classify, hfull, h0, h1, h2]

theorem topBits_of_classify_run {b1 : Byte} (h : classify b1 = .run) : bitField b1 6 2 = 3 := by
  have hlt : bitField b1 6 2 < 4 := bitField_lt b1 6 2
  simp only [classify] at h
  split_ifs at h with _ _ h0 h1 h2
  omega

theorem and_topMask_of_classify_run {b1 : Byte} (h : classify b1 = .run) : b1 &&& 0xC0 = 0xC0 :=
  (and_topMask_eq_ofNat_iff b1 3 (by decide)).mpr (topBits_of_classify_run h)

theorem classSizes : [Opcode.rgb, .rgba, .index, .diff, .luma, .run].map
    (fun op => ((List.range 256).filter fun n => decide (classify (BitVec.ofNat 8 n) = op)).length) = [1, 1, 64, 64, 64, 62] := by
  decide

/-- Settles O4: `classify` tests the two top bits as a number, and the slice `b1[7:6]` and the mask 0xC0 (R87) each determine that number. -/
theorem classifyFollowsTheMaskAndMatchTable : Obligations.ClassifyFollowsTheMaskAndMatchTable :=
  ⟨classify_eq_of_slice, classify_eq_of_mask, fun _ => and_topMask_of_classify_run, classSizes⟩

end Sys2Proof
end

section
/-! SUPPORT. The dimension check as arithmetic: the bounds a passing image size gives (R105, R110), the check of R105 as a proposition, and the
error of a header that fails it; then O36 and O37. -/

namespace Sys2Proof.Machine

/-! ### What h ≠ 0 and h < 400000000 / w bound -/

theorem width_le_of_lt_quotient {w h : Nat} (hw : w ≠ 0) (hh : h ≠ 0) (hb : h < 400000000 / w) : w ≤ 200000000 := by
  have hq : 2 ≤ 400000000 / w := by omega
  have : 2 * w ≤ 400000000 := (Nat.le_div_iff_mul_le (Nat.pos_of_ne_zero hw)).1 hq
  omega

theorem area_le_of_lt_quotient {w h : Nat} (hb : h < 400000000 / w) : w * h ≤ w * (400000000 / w) - w :=
  calc w * h ≤ w * (400000000 / w - 1) := Nat.mul_le_mul_left w (Nat.le_sub_one_of_lt hb)
    _ = w * (400000000 / w) - w := Nat.mul_sub_one w _

theorem area_bound_le (w : Nat) : w * (400000000 / w) - w ≤ 400000000 - w :=
  Nat.sub_le_sub_right (Nat.mul_div_le 400000000 w) w

theorem outLen_le_of_channels {s : State} (h : s.channels = 3 ∨ s.channels = 4) : s.outLen ≤ s.npix * 4 := by
  have hc : s.channels.toNat ≤ 4 := by rcases h with h | h <;> rw [h] <;> decide
  exact Nat.mul_le_mul_left s.npix hc

/-- Settles O36: H ≤ q − 1 multiplied by W bounds NPIX, q ≥ 2 bounds W, and R110's other bounds follow. -/
theorem passingHeaderBoundsTheImage : Obligations.PassingHeaderBoundsTheImage := by
  intro s hg
  have hw : s.width.toNat ≠ 0 := fun h => hg.widthPos (BitVec.eq_of_toNat_eq h)
  have hh : s.height.toNat ≠ 0 := fun h => hg.heightPos (BitVec.eq_of_toNat_eq h)
  have hb := hg.bound
  have hq : 400000000 / s.width.toNat ≤ 400000000 := Nat.div_le_self _ _
  have hW : s.width.toNat ≤ 200000000 := width_le_of_lt_quotient hw hh hb
  have hN : s.npix ≤ s.width.toNat * (400000000 / s.width.toNat) - s.width.toNat := area_le_of_lt_quotient hb
  have hA : s.width.toNat * (400000000 / s.width.toNat) - s.width.toNat ≤ 400000000 - s.width.toNat := area_bound_le _
  have hO : s.outLen ≤ s.npix * 4 := outLen_le_of_channels hg.channels
  have hN' : s.npix ≤ 399999999 := by omega
  refine ⟨?_, hN, hA, hN', ?_, hW, ?_, ?_, ?_⟩ <;> omega

/-! ### The check of R105 and its error -/

theorem dimensionsOk_iff (w h : Nat) : dimensionsOk w h = true ↔ w ≠ 0 ∧ h ≠ 0 ∧ h < 400000000 / w := by
  change _ ↔ w ≠ 0 ∧ h ≠ 0 ∧ h < pixelsMax / w
  simp only [dimensionsOk, Bool.and_eq_true, decide_eq_true_eq, and_assoc]

theorem headerError_badDimensions {f : HeaderFields} (hm : f.magic = 0x716F6966) (hd : dimensionsOk f.w f.h = false) :
    headerError f = .badDimensions := by
  have hm' : ¬ f.magic ≠ magicWord := not_not.2 hm
  rw [headerError, if_neg hm', hd]
  rfl

theorem dimensionsOk_of_wide {w h : Nat} (hw : 200000000 < w) : dimensionsOk w h = false := by
  rw [Bool.eq_false_iff, Ne, dimensionsOk_iff]
  rintro ⟨h0, hh, hb⟩
  exact absurd (width_le_of_lt_quotient h0 hh hb) (Nat.not_le.2 hw)

theorem dimensionsOk_one_iff (h : Nat) : dimensionsOk 1 h = true ↔ 1 ≤ h ∧ h ≤ 399999999 := by
  rw [dimensionsOk_iff, Nat.div_one]
  omega

theorem quotient_eq_one {w : Nat} (h1 : 200000000 < w) (h2 : w ≤ 400000000) : 400000000 / w = 1 :=
  Nat.div_eq_of_lt_le (by omega) (by omega)

/-- Settles O37: the check is its three comparisons, and a width above 200,000,000 leaves no height below the quotient. -/
theorem pixelBoundAndItsBoundaryCases : Obligations.PixelBoundAndItsBoundaryCases :=
  ⟨dimensionsOk_iff, fun _ => headerError_badDimensions, rfl, fun _ => Nat.div_eq_of_lt, fun _ => quotient_eq_one,
    fun _ _ => dimensionsOk_of_wide, dimensionsOk_one_iff, by decide, by decide, by decide, by decide, by decide⟩

end Sys2Proof.Machine
end

section
/-! SUPPORT. The header step as a function of one error code, which the command does not enter; then O35. -/

namespace Sys2Proof.Machine

/-- The outcome of the checks of R181 on IN and LEN: the first failing one, or none. -/
def State.headerCode (s : State) : ErrCode := if s.len.toNat < 14 then .bufferTooShort else headerError s.headerFields

theorem headerStep_of_headerCode_error {s : State} {e : ErrCode} (hc : s.headerCode = e) (he : e ≠ .none) :
    headerStep s = .next (s.enterFail e) := by
  subst hc
  rcases headerStep_cases s with ⟨hl, hs⟩ | ⟨hl, -, hs⟩ | ⟨hl, hn, -⟩
  · rw [hs, State.headerCode, if_pos hl]
  · rw [hs, State.headerCode, if_neg (Nat.not_lt.2 hl)]
  · exact absurd (by rw [State.headerCode, if_neg (Nat.not_lt.2 hl), hn]) he

theorem headerStep_of_headerCode_none {s : State} (h : s.headerCode = .none) :
    headerStep s = .next (s.loadHeader s.headerFields).headerPassed := by
  rcases headerStep_cases s with ⟨hl, -⟩ | ⟨hl, he, -⟩ | ⟨-, -, hs⟩
  · simp [State.headerCode, hl] at h
  · rw [State.headerCode, if_neg (Nat.not_lt.2 hl)] at h
    exact absurd h he
  · exact hs

theorem headerCode_withMode (s : State) (m : Mode) : State.headerCode { s with mode := m } = s.headerCode := rfl

theorem headerPassed_of_validate {s : State} (h : s.mode = .validate) : s.headerPassed = { s with seq := .done } := by
  rw [State.headerPassed, h]

theorem headerPassed_of_decode {s : State} (h : s.mode = .decode) : s.headerPassed = { s.decodeStart with seq := .pixels } := by
  rw [State.headerPassed, h]

theorem step_eq_headerStep {s : State} (hm : s.hostMoves = []) (hs : s.seq = .header) : step s = headerStep s := by
  rw [step_of_blockTurn (blockTurn_of_noMoves hm), blockStep, hs]

/-- Settles O35: both commands run the same checks to the same code, and MODE is read only where a passing header step ends. -/
theorem validateAgreesWithDecode : Obligations.ValidateAgreesWithDecode := by
  intro s hm hs hv he
  have hstep (m : Mode) : step { s with mode := m } = headerStep { s with mode := m } := step_eq_headerStep hm hs
  rw [hstep, hstep]
  by_cases hc : s.headerCode = .none
  · have hpass (m : Mode) := headerStep_of_headerCode_none ((headerCode_withMode s m).trans hc)
    refine ⟨_, _, hpass .decode, hpass .validate, ?_⟩
    rw [headerPassed_of_decode rfl, headerPassed_of_validate rfl]
    simp [he]
  · have hfail (m : Mode) := headerStep_of_headerCode_error (headerCode_withMode s m) hc
    refine ⟨_, _, hfail .decode, hfail .validate, ?_⟩
    simp [hv, hc]

end Sys2Proof.Machine
end

section
/-! SUPPORT. What a pixel step stores in OUT, whichever its branch; then O23. -/

namespace Sys2Proof.Machine

theorem step_eq_pixelStep {u s : State} (h : BlockTurn u s) (hs : s.seq = .pixels) : step u = pixelStep s := by
  rw [step_of_blockTurn h, blockStep, hs]

theorem pixelStep_outMem {s t : State} (h : pixelStep s = .next t) :
    t.outMem = s.outMem.writeBytes s.slotBase (colorBytes s.channels t.prev) := by
  obtain ⟨-, v, rfl, hv⟩ := pixelStep_frame h
  rw [hv]
  rfl

/-- Settles O23: all three branches end in one write of the PREV they leave at the slot's base, and it covers the slot and nothing else. -/
theorem everyPixelStepEmitsPrev : Obligations.EveryPixelStepEmitsPrev := by
  intro u s t hb hs hw h
  rw [step_eq_pixelStep hb hs] at h
  have hl : (colorBytes s.channels t.prev).length = s.emitCount := length_colorBytes ..
  rw [pixelStep_outMem h, ← hl]
  exact ⟨Memory.bytes_writeBytes hw .., Memory.read_writeBytes_outside _ _ _⟩

end Sys2Proof.Machine
end

section
/-! SUPPORT. Pixel steps that repeat PREV: a decode under way, one step that fetches nothing, and `k` of them in a row, which fill `k` pixels of
OUT with PREV; then O28, where the chunk is over, and O27, where a RUN opcode has been fetched. -/

namespace Sys2Proof.Machine

/-! ### A decode under way with room for the image -/

/-- The machine decodes, undisturbed by the host, with pixels left to give and an OUT that holds the whole image (R52, R120, R128). -/
structure State.UnderWay (s : State) : Prop where
  noMoves : s.hostMoves = []
  inPixels : s.seq = .pixels
  header : s.HeaderGood
  outWf : s.outMem.wf = true
  pixBound : s.pix.toNat < s.npix
  room : s.outLen ≤ s.outBytes

theorem State.Inv.underWay {s : State} (h : s.Inv) (hm : s.hostMoves = []) (hs : s.seq = .pixels) (hroom : s.outLen ≤ s.outBytes) :
    s.UnderWay where
  noMoves := hm
  inPixels := hs
  header := (h.pixels hs).good
  outWf := h.outWf
  pixBound := (h.pixels hs).pixBound
  room := hroom

theorem emitCount_eq_channels {s : State} (h : s.channels = 3 ∨ s.channels = 4) : s.emitCount = s.channels.toNat := by
  rcases h with h | h <;> simp [State.emitCount, h]

theorem length_pixelBytes_eq_channels {s : State} (h : s.channels = 3 ∨ s.channels = 4) : s.pixelBytes.length = s.channels.toNat := by
  rw [length_pixelBytes, emitCount_eq_channels h]

theorem slot_end_le {p q : Nat} (h : p < q) (c : Nat) : p * c + c ≤ q * c :=
  calc p * c + c = (p + 1) * c := (Nat.succ_mul p c).symm
    _ ≤ q * c := Nat.mul_le_mul_right c h

theorem State.UnderWay.roomForPixel {s : State} (h : s.UnderWay) : s.RoomForPixel := by
  rw [State.RoomForPixel, emitCount_eq_channels h.header.channels]
  exact (slot_end_le h.pixBound _).trans h.room

theorem State.UnderWay.pix_add_one {s : State} (h : s.UnderWay) : (s.pix + 1).toNat = s.pix.toNat + 1 := by
  obtain ⟨-, -, -, hN, -⟩ := passingHeaderBoundsTheImage s h.header
  have hp := h.pixBound
  rw [BitVec.toNat_add]
  exact Nat.mod_eq_of_lt (show s.pix.toNat + 1 < 2 ^ 32 by omega)

theorem State.HeaderGood.of_eq {s t : State} (h : s.HeaderGood) (hw : t.width = s.width) (hh : t.height = s.height)
    (hc : t.channels = s.channels) (hcs : t.colorspace = s.colorspace) : t.HeaderGood where
  widthPos := hw ▸ h.widthPos
  heightPos := hh ▸ h.heightPos
  bound := by rw [hw, hh]; exact h.bound
  channels := hc ▸ h.channels
  colorspace := hcs ▸ h.colorspace

/-! ### The pixel slots after the common end of a pixel step -/

theorem outPixel_afterPixel_current {s : State} (hw : s.outMem.wf = true) (hc : s.channels = 3 ∨ s.channels = 4) :
    s.afterPixel.outPixel s.pix.toNat = colorBytes s.channels s.prev := by
  have hl : s.pixelBytes.length = s.channels.toNat := length_pixelBytes_eq_channels hc
  rw [← pixelBytes_eq, State.outPixel, afterPixel_outMem, afterPixel_channels, ← State.slotBase, ← hl]
  exact Memory.bytes_writeBytes hw ..

theorem outPixel_afterPixel_other {s : State} (hc : s.channels = 3 ∨ s.channels = 4) {p : Nat} (hp : p ≠ s.pix.toNat) :
    s.afterPixel.outPixel p = s.outPixel p := by
  have hl : s.pixelBytes.length = s.channels.toNat := length_pixelBytes_eq_channels hc
  refine Memory.bytes_congr fun b h1 h2 => Memory.read_writeBytes_outside _ _ _ b ?_
  rw [hl, State.slotBase]
  rcases Nat.lt_or_gt_of_ne hp with hp | hp
  · exact Or.inl (h2.trans_le (slot_end_le hp _))
  · exact Or.inr ((slot_end_le hp _).trans h1)

/-! ### One step that repeats PREV -/

/-- The next `k` pixel steps fetch nothing: the pending run lasts for them, or no run is pending and the chunk is over (R122, R126). -/
def State.RepeatsFor (s : State) (k : Nat) : Prop := k ≤ s.run.toNat ∨ s.run = 0 ∧ s.len.toNat ≤ s.cur.toNat + 8

theorem pixelStep_repeat {s : State} (h : s.RepeatsFor 1) (hroom : s.RoomForPixel) :
    ∃ r : BitVec 6, r.toNat = s.run.toNat - 1 ∧ pixelStep s = .next (s.setRun r).afterPixel := by
  have hfin (r : BitVec 6) : finishPixel (s.setRun r) = .next (s.setRun r).afterPixel :=
    finishPixel_room ((roomForPixel_congr rfl rfl rfl).2 hroom)
  rcases h with hrun | ⟨hrun, hend⟩
  · have hne : s.run ≠ 0 := by rintro h0; simp [h0] at hrun
    exact ⟨s.run - 1, BitVec.toNat_sub_of_le (by bv_omega), by rw [pixelStep_run hne, hfin]⟩
  · exact ⟨s.run, by simp [hrun], by rw [pixelStep_tail hrun (Nat.not_lt.2 hend)]; exact hfin s.run⟩

/-! ### `k` steps that repeat PREV -/

theorem runSteps_one (s : State) : runSteps 1 s = step s := by
  rw [runSteps]
  cases step s <;> rfl

theorem runSteps_succ (k : Nat) (s : State) : runSteps (k + 1) s = andThen (runSteps k s) step := by
  induction k generalizing s with
  | zero => exact runSteps_one s
  | succ k ih =>
    rw [runSteps, runSteps]
    cases step s with
    | next t => exact ih t
    | fault r => rfl
    | refused r => rfl

/-- `t` is `s` after `k` pixels of PREV: they are counted and stored, RUN has fallen, and no other register has changed. -/
structure RepeatedPrev (s t : State) (k : Nat) : Prop where
  frame : { t with run := s.run, pix := s.pix, seq := s.seq, outMem := s.outMem } = s
  run : t.run.toNat = s.run.toNat - k
  pix : t.pix.toNat = s.pix.toNat + k
  seq : t.seq = if s.pix.toNat + k = s.npix then .done else .pixels
  outWf : t.outMem.wf = true
  filled : ∀ p, s.pix.toNat ≤ p → p < s.pix.toNat + k → t.outPixel p = colorBytes s.channels s.prev

theorem RepeatedPrev.zero {s : State} (h : s.UnderWay) : RepeatedPrev s s 0 where
  frame := rfl
  run := rfl
  pix := rfl
  seq := by rw [Nat.add_zero, if_neg (Nat.ne_of_lt h.pixBound), h.inPixels]
  outWf := h.outWf
  filled p h1 h2 := absurd h2 (Nat.not_lt.2 h1)

section
variable {s t : State} {k : Nat} (h : RepeatedPrev s t k)
include h

theorem RepeatedPrev.prev_eq : t.prev = s.prev := (congrArg State.prev h.frame :)
theorem RepeatedPrev.cur_eq : t.cur = s.cur := (congrArg State.cur h.frame :)
theorem RepeatedPrev.cache_eq : t.cache = s.cache := (congrArg State.cache h.frame :)
theorem RepeatedPrev.len_eq : t.len = s.len := (congrArg State.len h.frame :)
theorem RepeatedPrev.outBytes_eq : t.outBytes = s.outBytes := (congrArg State.outBytes h.frame :)
theorem RepeatedPrev.channels_eq : t.channels = s.channels := (congrArg State.channels h.frame :)
theorem RepeatedPrev.errcode_eq : t.errcode = s.errcode := (congrArg State.errcode h.frame :)
theorem RepeatedPrev.npix_eq : t.npix = s.npix := (congrArg State.npix h.frame :)

theorem RepeatedPrev.underWay (hs : s.UnderWay) (hk : s.pix.toNat + k < s.npix) : t.UnderWay where
  noMoves := (congrArg State.hostMoves h.frame :).trans hs.noMoves
  inPixels := by rw [h.seq, if_neg (Nat.ne_of_lt hk)]
  header := hs.header.of_eq (congrArg State.width h.frame :) (congrArg State.height h.frame :) h.channels_eq
    (congrArg State.colorspace h.frame :)
  outWf := h.outWf
  pixBound := by rwa [h.pix, h.npix_eq]
  room := by
    rw [State.outLen, h.npix_eq, h.channels_eq, h.outBytes_eq]
    exact hs.room

theorem RepeatedPrev.repeatsFor_one (hr : s.RepeatsFor (k + 1)) : t.RepeatsFor 1 := by
  have hrun := h.run
  rcases hr with hr | ⟨hr, hend⟩
  · exact Or.inl (by omega)
  · refine Or.inr ⟨BitVec.eq_of_toNat_eq ?_, ?_⟩
    · simp [hrun, hr]
    · rwa [h.cur_eq, h.len_eq]

theorem RepeatedPrev.succ (ht : t.UnderWay) {r : BitVec 6} (hr : r.toNat = t.run.toNat - 1) :
    RepeatedPrev s (t.setRun r).afterPixel (k + 1) where
  frame := h.frame
  run := by rw [afterPixel_run, State.setRun_run, hr, h.run, Nat.sub_sub]
  pix := by rw [afterPixel_pix, State.setRun_pix, ht.pix_add_one, h.pix, Nat.add_assoc]
  seq := by
    rw [afterPixel_seq, State.setRun_pix, ht.pix_add_one, h.pix, State.setRun_seq, ht.inPixels, ← h.npix_eq]
    rfl
  outWf := Memory.wf_writeBytes h.outWf ..
  filled p h1 h2 := by
    rw [← h.channels_eq, ← h.prev_eq]
    by_cases hp : p = t.pix.toNat
    · subst hp
      exact outPixel_afterPixel_current (s := t.setRun r) h.outWf ht.header.channels
    · have hpix := h.pix
      rw [outPixel_afterPixel_other (s := t.setRun r) ht.header.channels hp, h.channels_eq, h.prev_eq]
      exact h.filled p h1 (by omega)

end

/-- As long as nothing is fetched and pixels are left, `k` steps give `k` pixels of PREV. -/
theorem runSteps_repeat {s : State} (hs : s.UnderWay) {k : Nat} (hr : s.RepeatsFor k) (hk : s.pix.toNat + k ≤ s.npix) :
    ∃ t, runSteps k s = .next t ∧ RepeatedPrev s t k := by
  induction k with
  | zero => exact ⟨s, rfl, .zero hs⟩
  | succ k ih =>
    obtain ⟨t, hrun, ht⟩ := ih (hr.imp_left Nat.le_of_succ_le) (Nat.le_of_succ_le hk)
    have hu : t.UnderWay := ht.underWay hs hk
    obtain ⟨r, hrv, hstep⟩ := pixelStep_repeat (ht.repeatsFor_one hr) hu.roomForPixel
    refine ⟨_, ?_, ht.succ hu hrv⟩
    rw [runSteps_succ, hrun, andThen_next, step_eq_pixelStep (blockTurn_of_noMoves hu.noMoves) hu.inPixels, hstep]

/-- Settles O28: at the chunk's end with no run pending every step repeats PREV, so as many steps as pixels are left give the rest of the image. -/
theorem tailFillFillsTheRestOfTheImage : Obligations.TailFillFillsTheRestOfTheImage := by
  intro s hinv hm hs hrun hend hroom
  have hu : s.UnderWay := hinv.underWay hm hs hroom
  have hsum : s.pix.toNat + (s.npix - s.pix.toNat) = s.npix := Nat.add_sub_of_le (Nat.le_of_lt hu.pixBound)
  obtain ⟨t, ht, h⟩ := runSteps_repeat hu (Or.inr ⟨hrun, hend⟩) hsum.le
  obtain ⟨-, herr, -⟩ := (hinv.pixels hs).passed
  have hrun' : t.run = s.run := BitVec.eq_of_toNat_eq (by rw [h.run, hrun]; exact Nat.zero_sub _)
  refine ⟨t, ht, ?_, h.pix.trans hsum, h.errcode_eq.trans herr, h.prev_eq, hrun', h.cur_eq, h.cache_eq, fun p h1 h2 => ?_⟩
  · rw [h.seq, if_pos hsum]
  · exact h.filled p h1 (h2.trans_eq hsum.symm)

/-! ### A RUN opcode begins a run -/

/-- With no run pending and the cursor before the chunk end, the pixel step is exec of what the bytes at CUR decode to (R123). -/
theorem pixelStep_of_decode {s : State} {i : Instr} (hr : s.run = 0) (he : s.cur.toNat + 8 < s.len.toNat)
    (hd : decode (s.inMem.bytes s.cur.toNat (opLength (classify (s.inMem.read s.cur.toNat)))) = .ok i []) :
    pixelStep s = exec i s := by
  obtain ⟨j, hj, hexec⟩ := opcodeResolved_eq he
  obtain ⟨rfl, -⟩ := Decoded.ok.inj (hj.symm.trans hd)
  rw [pixelStep_opcode hr he, hexec]

theorem classify_runByte {n : BitVec 6} (h : n.toNat ≤ 61) : classify (0b11#2 ++ n) = .run := by
  revert n; decide

theorem fieldRun_runByte (n : BitVec 6) : fieldRun (0b11#2 ++ n) = n.toNat := by
  revert n; decide

theorem pixelStep_runByte {s : State} {n : BitVec 6} (hn : n.toNat ≤ 61) (h : FetchesAtCur s [0b11#2 ++ n]) :
    pixelStep s = exec (.run n.toNat) s := by
  have hbytes : s.inMem.bytes s.cur.toNat 1 = [0b11#2 ++ n] := h.bytesAtCur
  have hread : s.inMem.read s.cur.toNat = 0b11#2 ++ n := (List.cons.inj hbytes).1
  refine pixelStep_of_decode h.noRun h.beforeEnd ?_
  rw [hread, classify_runByte hn, opLength, hbytes, decode_run (classify_runByte hn), fieldRun_runByte]

/-- The state from which a run continuation does what a RUN opcode with count `n` does: one byte on, its cache slot written, and a run of `n + 1`
pending, the opcode's own pixel included. -/
def State.withRunPending (s : State) (n : BitVec 6) : State := ((s.setRun (n + 1)).advanceCur 1).cacheUpdate

theorem run_withRunPending {s : State} {n : BitVec 6} (hn : n.toNat ≤ 61) : (s.withRunPending n).run.toNat = n.toNat + 1 := by
  change (n + 1).toNat = _
  bv_omega

theorem exec_run_eq_runContinue {s : State} {n : BitVec 6} (hn : n.toNat ≤ 61) :
    exec (.run n.toNat) s = pixelStep (s.withRunPending n) := by
  have hne : (s.withRunPending n).run ≠ 0 := by
    intro h0
    have := run_withRunPending (s := s) hn
    simp [h0] at this
  have hpred : (s.withRunPending n).run - 1 = runCount n.toNat := by
    change n + 1 - 1 = BitVec.ofNat 6 n.toNat
    rw [BitVec.add_sub_cancel, BitVec.ofNat_toNat, BitVec.setWidth_eq]
  rw [exec_shape, pixelStep_run hne, hpred]
  rfl

theorem State.UnderWay.withRunPending {s : State} (h : s.UnderWay) (n : BitVec 6) : (s.withRunPending n).UnderWay where
  noMoves := h.noMoves
  inPixels := h.inPixels
  header := h.header.of_eq rfl rfl rfl rfl
  outWf := h.outWf
  pixBound := h.pixBound
  room := h.room

/-- Settles O27: the RUN opcode's pixel step is the first of n + 1 run continuations, and a pending run of n + 1 gives that many pixels of PREV. -/
theorem runYieldsCountPlusOnePixels : Obligations.RunYieldsCountPlusOnePixels := by
  intro s n hinv hm hn hfetch hpix hroom
  have hu : s.UnderWay := hinv.underWay hm hfetch.inPixels hroom
  have hw := hu.withRunPending n
  have hrun := run_withRunPending (s := s) hn
  have hfirst : step s = step (s.withRunPending n) := by
    rw [step_eq_pixelStep (blockTurn_of_noMoves hm) hu.inPixels, pixelStep_runByte hn hfetch, exec_run_eq_runContinue hn,
      step_eq_pixelStep (blockTurn_of_noMoves hw.noMoves) hw.inPixels]
  obtain ⟨t, ht, h⟩ := runSteps_repeat hw (Or.inl hrun.ge) hpix
  have hrun0 : t.run = 0 := BitVec.eq_of_toNat_eq (by rw [h.run, hrun]; exact Nat.sub_self _)
  refine ⟨t, ?_, h.prev_eq, hrun0, h.cur_eq, h.pix, h.channels_eq, h.seq, fun p h1 h2 => h.filled p h1 (Nat.lt_succ_of_le h2)⟩
  rw [runSteps, hfirst]
  exact ht

end Sys2Proof.Machine
end

section
/-! SUPPORT. Two machines with the same input: they agree on every register and on the emitted bytes through the decode, whatever else IN, OUT and
the model's own fields hold, and on the result of the command once it has stopped; then O31. -/

namespace Sys2Proof.Machine

/-! ### What two machines share -/

/-- Everything a decode computes with but the two byte spaces; the host's last read and the draws are left out too. -/
def State.regs (s : State) : State := { s with inMem := [], outMem := [], hostData := 0, draws := 0 }

/-- Two decodes of the same input at the same pixel: equal registers, equal bytes of IN below LEN, and the same OUT bytes emitted so far. -/
structure SameDecode (s s' : State) : Prop where
  regs : s'.regs = s.regs
  inBytes : ∀ a < s.len.toNat, s'.inMem.read a = s.inMem.read a
  channels : s.channels = 3 ∨ s.channels = 4
  outWf : s.outMem.wf = true
  outWf' : s'.outMem.wf = true
  emitted : ∀ a < s.pix.toNat * s.channels.toNat, s'.outMem.read a = s.outMem.read a

/-- The parts of a command's result that its input fixes (R131): the header registers and OUT are left open in FAIL (R108). -/
structure SameOutcome (t t' : State) : Prop where
  seq : t'.seq = t.seq
  errcode : t'.errcode = t.errcode
  valid : t'.valid = t.valid
  pix : t'.pix = t.pix
  image : t.seq ≠ .fail → t'.width = t.width ∧ t'.height = t.height ∧ t'.channels = t.channels ∧ t'.colorspace = t.colorspace ∧
    ∀ a < t.pix.toNat * t.channels.toNat, t'.outMem.read a = t.outMem.read a

section
variable {s s' : State} (h : SameDecode s s')
include h

theorem SameDecode.run_eq : s'.run = s.run := (congrArg State.run h.regs :)
theorem SameDecode.cur_eq : s'.cur = s.cur := (congrArg State.cur h.regs :)
theorem SameDecode.len_eq : s'.len = s.len := (congrArg State.len h.regs :)
theorem SameDecode.seq_eq : s'.seq = s.seq := (congrArg State.seq h.regs :)
theorem SameDecode.hostMoves_eq : s'.hostMoves = s.hostMoves := (congrArg State.hostMoves h.regs :)
theorem SameDecode.slotBase_eq : s'.slotBase = s.slotBase := (congrArg State.slotBase h.regs :)
theorem SameDecode.pixelBytes_eq : s'.pixelBytes = s.pixelBytes := (congrArg State.pixelBytes h.regs :)
theorem SameDecode.roomForPixel_iff : s'.RoomForPixel ↔ s.RoomForPixel := (congrArg State.RoomForPixel h.regs :).to_iff

theorem SameDecode.sameOutcome : SameOutcome s s' where
  seq := h.seq_eq
  errcode := (congrArg State.errcode h.regs :)
  valid := (congrArg State.valid h.regs :)
  pix := (congrArg State.pix h.regs :)
  image _ := ⟨(congrArg State.width h.regs :), (congrArg State.height h.regs :), (congrArg State.channels h.regs :),
    (congrArg State.colorspace h.regs :), h.emitted⟩

/-! ### A pixel step keeps two decodes alike -/

theorem SameDecode.setRun (n : BitVec 6) : SameDecode (s.setRun n) (s'.setRun n) where
  __ := h
  regs := (congrArg (·.setRun n) h.regs :)

theorem SameDecode.afterExec_cacheUpdate (i : Instr) : SameDecode (afterExec i s).cacheUpdate (afterExec i s').cacheUpdate := by
  have hregs (s : State) : (afterExec i s).cacheUpdate.regs = (afterExec i s.regs).cacheUpdate := by cases i <;> rfl
  obtain ⟨hpix, -, -, hch, -, hlen, -, -, -, -, hin, hout, -⟩ := afterExec_frame i s
  obtain ⟨-, -, -, -, -, -, -, -, -, -, hin', hout', -⟩ := afterExec_frame i s'
  refine ⟨by rw [hregs, hregs, h.regs], ?_, ?_, ?_, ?_, ?_⟩
  · rw [hlen, hin, hin']; exact h.inBytes
  · rw [hch]; exact h.channels
  · rw [hout]; exact h.outWf
  · rw [hout']; exact h.outWf'
  · rw [hpix, hch, hout, hout']; exact h.emitted

/-- The emitted part grows by the current slot, which both machines fill with the same bytes. -/
theorem SameDecode.afterPixel : SameDecode s.afterPixel s'.afterPixel where
  regs := (congrArg State.countPixel h.regs :)
  inBytes := h.inBytes
  channels := h.channels
  outWf := Memory.wf_writeBytes h.outWf ..
  outWf' := Memory.wf_writeBytes h.outWf' ..
  emitted a ha := by
    have hl : s.pixelBytes.length = s.channels.toNat := length_pixelBytes_eq_channels h.channels
    have hend : a < s.slotBase + s.pixelBytes.length := by
      have hle : (s.pix + 1).toNat ≤ s.pix.toNat + 1 := by rw [BitVec.toNat_add]; exact Nat.mod_le _ _
      rw [hl, State.slotBase, ← Nat.succ_mul]
      exact ha.trans_le (Nat.mul_le_mul_right _ hle)
    rw [afterPixel_outMem, afterPixel_outMem, h.slotBase_eq, h.pixelBytes_eq]
    rcases Nat.lt_or_ge a s.slotBase with hlow | hlow
    · rw [Memory.read_writeBytes_outside _ _ _ _ (Or.inl hlow), Memory.read_writeBytes_outside _ _ _ _ (Or.inl hlow)]
      exact h.emitted a hlow
    · exact Memory.bytes_eq_read ((Memory.bytes_writeBytes h.outWf' ..).trans (Memory.bytes_writeBytes h.outWf ..).symm) hlow hend

theorem SameDecode.opcodeBytes_eq (he : s.cur.toNat + 8 < s.len.toNat) :
    s'.inMem.bytes s'.cur.toNat (opLength (classify (s'.inMem.read s'.cur.toNat))) =
      s.inMem.bytes s.cur.toNat (opLength (classify (s.inMem.read s.cur.toNat))) := by
  have hl := opLength_le (classify (s.inMem.read s.cur.toNat))
  rw [h.cur_eq, h.inBytes _ (by omega)]
  exact Memory.bytes_congr fun b _ hb => h.inBytes b (by omega)

theorem SameDecode.pixelStep_next {t : State} (ht : pixelStep s = .next t) : ∃ t', pixelStep s' = .next t' ∧ SameDecode t t' := by
  rcases pixelStep_cases s with ⟨-, hs⟩ | ⟨hroom, hbranch⟩
  · rw [hs] at ht
    cases ht
  have hroom' : s'.RoomForPixel := h.roomForPixel_iff.2 hroom
  rcases hbranch with ⟨hrun, hs⟩ | ⟨hrun, he, i, hd, hs⟩ | ⟨hrun, he, hs⟩ <;> obtain rfl := Host.Outcome.next.inj (hs.symm.trans ht)
  · refine ⟨_, ?_, (h.setRun _).afterPixel⟩
    rw [pixelStep_run (h.run_eq ▸ hrun), h.run_eq]
    exact finishPixel_room hroom'
  · have he' : s'.cur.toNat + 8 < s'.len.toNat := by rwa [h.cur_eq, h.len_eq]
    refine ⟨_, ?_, (h.afterExec_cacheUpdate i).afterPixel⟩
    rw [pixelStep_of_decode (h.run_eq.trans hrun) he' ((congrArg decode (h.opcodeBytes_eq he)).trans hd), exec_room i hroom']
  · have he' : ¬ s'.cur.toNat + 8 < s'.len.toNat := by rwa [h.cur_eq, h.len_eq]
    exact ⟨_, by rw [pixelStep_tail (h.run_eq.trans hrun) he', finishPixel_room hroom'], h.afterPixel⟩

end

/-! ### From one command's header step on -/

/-- Two machines past the header step of the same command: both decode alike, or both have stopped with the same outcome. -/
inductive SameCommand (s s' : State) : Prop where
  | decoding (noMoves : s.hostMoves = []) (inPixels : s.seq = .pixels) (same : SameDecode s s')
  | stopped (noMoves : s.hostMoves = []) (noMoves' : s'.hostMoves = []) (quiet : s.seq = .done ∨ s.seq = .fail)
      (same : SameOutcome s s')

theorem SameCommand.sameOutcome {s s' : State} (h : SameCommand s s') : SameOutcome s s' := by
  cases h with
  | decoding _ _ h => exact h.sameOutcome
  | stopped _ _ _ h => exact h

theorem SameDecode.sameCommand {s s' : State} (h : SameDecode s s') (hm : s.hostMoves = []) (hs : s.seq = .pixels ∨ s.seq = .done) :
    SameCommand s s' := by
  rcases hs with hs | hs
  · exact .decoding hm hs h
  · exact .stopped hm (h.hostMoves_eq.trans hm) (Or.inl hs) h.sameOutcome

theorem step_of_quiet {s : State} (hm : s.hostMoves = []) (hs : s.seq = .done ∨ s.seq = .fail) : step s = .next s := by
  rw [step_of_blockTurn (blockTurn_of_noMoves hm), blockStep]
  rcases hs with hs | hs <;> rw [hs]

theorem pixelStep_seq {s t : State} (hs : s.seq = .pixels) (h : pixelStep s = .next t) : t.seq = .pixels ∨ t.seq = .done := by
  obtain ⟨-, v, rfl, hv⟩ := pixelStep_frame h
  have hvs : v.seq = .pixels := by rw [hv]; exact hs
  rw [afterPixel_seq, hvs]
  split
  · exact Or.inr rfl
  · exact Or.inl rfl

theorem pixelStep_hostMoves {s t : State} (h : pixelStep s = .next t) : t.hostMoves = s.hostMoves := by
  obtain ⟨-, v, rfl, hv⟩ := pixelStep_frame h
  rw [hv]
  rfl

theorem SameCommand.step_next {s s' t : State} (h : SameCommand s s') (ht : step s = .next t) :
    ∃ t', step s' = .next t' ∧ SameCommand t t' := by
  cases h with
  | decoding hm hs h =>
    rw [step_eq_pixelStep (blockTurn_of_noMoves hm) hs] at ht
    rw [step_eq_pixelStep (blockTurn_of_noMoves (h.hostMoves_eq.trans hm)) (h.seq_eq.trans hs)]
    obtain ⟨t', ht', h'⟩ := h.pixelStep_next ht
    exact ⟨t', ht', h'.sameCommand ((pixelStep_hostMoves ht).trans hm) (pixelStep_seq hs ht)⟩
  | stopped hm hm' hs h =>
    rw [step_of_quiet hm hs] at ht
    obtain rfl := Host.Outcome.next.inj ht
    exact ⟨s', step_of_quiet hm' (h.seq ▸ hs), .stopped hm hm' hs h⟩

/-- A relation that every answering step keeps is kept by every answering run. -/
theorem runSteps_of_simulation {R : State → State → Prop}
    (hstep : ∀ {s s' t}, R s s' → step s = .next t → ∃ t', step s' = .next t' ∧ R t t') {k : Nat} {s s' t : State} (h : R s s')
    (ht : runSteps k s = .next t) : ∃ t', runSteps k s' = .next t' ∧ R t t' := by
  induction k generalizing t with
  | zero =>
    obtain rfl := Host.Outcome.next.inj ht
    exact ⟨s', rfl, h⟩
  | succ k ih =>
    rw [runSteps_succ] at ht
    cases hu : runSteps k s with
    | next u =>
      obtain ⟨u', hu', hR⟩ := ih hu
      rw [hu, andThen_next] at ht
      obtain ⟨t', ht', hR'⟩ := hstep hR ht
      exact ⟨t', by rw [runSteps_succ, hu', andThen_next, ht'], hR'⟩
    | fault r => rw [hu] at ht; cases ht
    | refused r => rw [hu] at ht; cases ht

/-! ### The header step -/

section
variable {s s' : State} (h : SameInput s s')
include h

theorem SameInput.bytes_eq {a n : Nat} (hn : a + n ≤ s.len.toNat) : s'.inMem.bytes a n = s.inMem.bytes a n :=
  Memory.bytes_congr fun b _ hb => h.bytes b (hb.trans_le hn)

theorem SameInput.headerFields_eq (hl : 14 ≤ s.len.toNat) : s'.headerFields = s.headerFields := by
  rw [State.headerFields, State.headerFields, h.bytes_eq (by omega), h.bytes_eq (by omega), h.bytes_eq (by omega),
    h.bytes_eq (by omega), h.bytes_eq (by omega)]

theorem SameInput.headerCode_eq : s'.headerCode = s.headerCode := by
  rw [State.headerCode, State.headerCode, h.len]
  split
  · rfl
  · next hl => rw [h.headerFields_eq (Nat.not_lt.1 hl)]

end

theorem headerCode_none {s : State} (h : s.headerCode = .none) : 14 ≤ s.len.toNat ∧ headerError s.headerFields = .none := by
  rw [State.headerCode] at h
  split at h
  · cases h
  · next hl => exact ⟨Nat.not_lt.1 hl, h⟩

theorem channels_of_headerError_none {f : HeaderFields} (h : headerError f = .none) :
    BitVec.ofNat 8 f.ch = 3 ∨ BitVec.ofNat 8 f.ch = 4 := by
  obtain ⟨-, -, -, -, hch, -⟩ := (headerError_none_iff f).1 h
  exact hch.imp (congrArg _) (congrArg _)

section
variable {s s' : State} (hinv : s.Inv) (hinv' : s'.Inv) (hm : s.hostMoves = []) (hm' : s'.hostMoves = []) (hs : s.seq = .header)
  (hs' : s'.seq = .header) (h : SameInput s s')
include hinv hinv' hm hm' hs hs' h

/-- Loading a header that passes, and decode start after it, overwrite every register the two machines may not share. -/
theorem headerPassed_sameCommand {f : HeaderFields} (hf : headerError f = .none) :
    SameCommand (s.loadHeader f).headerPassed (s'.loadHeader f).headerPassed := by
  obtain ⟨-, he, hp⟩ := hinv.header hs
  obtain ⟨-, he', hp'⟩ := hinv'.header hs'
  cases hmode : s.mode with
  | decode =>
    rw [headerPassed_of_decode (s := s.loadHeader f) hmode, headerPassed_of_decode (s := s'.loadHeader f) (h.mode.trans hmode)]
    refine .decoding hm rfl ⟨?_, h.bytes, channels_of_headerError_none hf, hinv.outWf, hinv'.outWf, ?_⟩
    · simp [State.regs, State.decodeStart, State.loadHeader, h.len, h.mode, h.outBytes, hp, hp', he, he', hm, hm']
    · simp [hp]
  | validate =>
    rw [headerPassed_of_validate (s := s.loadHeader f) hmode, headerPassed_of_validate (s := s'.loadHeader f) (h.mode.trans hmode)]
    exact .stopped hm hm' (Or.inl rfl) ⟨rfl, he'.trans he.symm, rfl, hp'.trans hp.symm, fun _ => by simp [hp]⟩

theorem step_header_sameCommand : ∃ t t', step s = .next t ∧ step s' = .next t' ∧ SameCommand t t' := by
  rw [step_eq_headerStep hm hs, step_eq_headerStep hm' hs']
  by_cases hc : s.headerCode = .none
  · obtain ⟨hl, hf⟩ := headerCode_none hc
    refine ⟨_, _, headerStep_of_headerCode_none hc, headerStep_of_headerCode_none (h.headerCode_eq.trans hc), ?_⟩
    rw [h.headerFields_eq hl]
    exact headerPassed_sameCommand hinv hinv' hm hm' hs hs' h hf
  · obtain ⟨hv, -, hp⟩ := hinv.header hs
    obtain ⟨hv', -, hp'⟩ := hinv'.header hs'
    refine ⟨_, _, headerStep_of_headerCode_error rfl hc, headerStep_of_headerCode_error h.headerCode_eq hc, ?_⟩
    exact .stopped hm hm' (Or.inr rfl) ⟨rfl, rfl, hv'.trans hv.symm, hp'.trans hp.symm, fun hne => absurd rfl hne⟩

end

/-- Settles O31: the header step makes two machines with the same input run the same command, and every later step keeps them so. -/
theorem resultDependsOnTheInputAlone : Obligations.ResultDependsOnTheInputAlone := by
  intro s s' k t hinv hinv' hm hm' hs hs' hin ht
  obtain ⟨u, u', hu, hu', h⟩ := step_header_sameCommand hinv hinv' hm hm' hs hs' hin
  rw [runSteps, hu, andThen_next] at ht
  rw [runSteps, hu', andThen_next]
  obtain ⟨t', ht', htt⟩ := runSteps_of_simulation SameCommand.step_next h ht
  obtain ⟨hseq, herr, hvalid, hpix, himage⟩ := htt.sameOutcome
  exact ⟨t', ht', hseq, herr, hvalid, hpix, himage⟩

end Sys2Proof.Machine
end

section
/-! SUPPORT. The colour arithmetic unit (spec/42_color_arithmetic.md R140 to R148): the laws of add8 and sub8, the colour equality, and the hash as six-bit
arithmetic; then O6, O8 and O7. -/

namespace Sys2Proof.Machine

/-- R142's composition law: the inner `mod 256` is absorbed by the outer one. -/
theorem add8_add8 (x : Byte) (d e : Int) : add8 (add8 x d) e = add8 x (d + e) := by
  apply byte_ext
  rw [add8_toInt_emod, add8_toInt_emod, add8_toInt_emod, Int.emod_add_emod, Int.add_assoc]

theorem add8_emod_256 (x : Byte) (d : Int) : add8 x (d % 256) = add8 x d := by
  apply byte_ext
  rw [add8_toInt_emod, add8_toInt_emod, Int.add_emod_emod]

@[simp] theorem add8_256 (x : Byte) : add8 x 256 = x := by
  rw [← add8_emod_256, Int.emod_self, add8_zero]

@[simp] theorem sub8_add8 (x : Byte) (d : Int) : sub8 (add8 x d) d = x := by
  rw [sub8_eq_add8_neg, add8_add8, Int.add_right_neg, add8_zero]

/-- Settles O6, from the laws above; the corner cases of R140 and R141 that fix the operands are evaluated. -/
theorem modularArithmeticLaws : Obligations.ModularArithmeticLaws := fun x d e =>
  ⟨add8_toInt_emod x d, sub8_toInt_emod x d, sub8_eq_add8_neg x d, add8_add8 x d e, (add8_emod_256 x d).symm, sub8_add8 x d,
    add8_zero x, add8_256 x, by decide⟩

theorem colorEq_iff (c d : Color) : colorEq c d = true ↔ c.r = d.r ∧ c.g = d.g ∧ c.b = d.b ∧ c.a = d.a := by
  simp [colorEq, and_assoc]

theorem hash_prevInit : (hash prevInit).val = 53 := by decide

theorem hash_cacheInit : hash cacheInit = 0 := by decide

/-- Settles O8: `hash cacheInit` is slot 0, so a slot is its own hash at decode start exactly when it is slot 0. -/
theorem colourLanesEqualityAndInitialHashes : Obligations.ColourLanesEqualityAndInitialHashes := by
  refine ⟨fun _ _ _ _ => rfl, colorEq_iff, hash_prevInit, congrArg Fin.val hash_cacheInit, fun i => ?_⟩
  rw [hash_cacheInit, eq_comm, Fin.ext_iff]
  rfl

theorem hash_val_lowSixBits (c : Color) :
    (hash c).val = (3 * (c.r.toNat % 64) + 5 * (c.g.toNat % 64) + 7 * (c.b.toNat % 64) + 11 * (c.a.toNat % 64)) % 64 := by
  rw [hash_val]
  omega

/-- The weighted channel sum of R144 in arithmetic that wraps at width `w` (R145). -/
def wrappingSum (w : Nat) (c : Color) : BitVec w :=
  BitVec.ofNat w 3 * c.r.setWidth w + BitVec.ofNat w 5 * c.g.setWidth w + BitVec.ofNat w 7 * c.b.setWidth w +
    BitVec.ofNat w 11 * c.a.setWidth w

/-- Dropping high bits commutes with wrapping sums and products, so the low six bits are those of the six-bit sum. -/
theorem setWidth_six_wrappingSum {w : Nat} (hw : 6 ≤ w) (c : Color) : (wrappingSum w c).setWidth 6 = wrappingSum 6 c := by
  simp only [wrappingSum, BitVec.setWidth_add _ _ hw, BitVec.setWidth_mul _ _ hw, BitVec.setWidth_setWidth_of_le _ hw,
    BitVec.setWidth_ofNat_of_le hw]

theorem toNat_wrappingSum_six (c : Color) : (wrappingSum 6 c).toNat = (hash c).val := by
  rw [hash_val]
  simp [wrappingSum, BitVec.toNat_add, BitVec.toNat_mul]

theorem hash_val_wrapping {w : Nat} (hw : 6 ≤ w) (c : Color) : (hash c).val = (wrappingSum w c).toNat % 64 :=
  calc (hash c).val
    _ = (wrappingSum 6 c).toNat := (toNat_wrappingSum_six c).symm
    _ = ((wrappingSum w c).setWidth 6).toNat := by rw [setWidth_six_wrappingSum hw]
    _ = (wrappingSum w c).toNat % 64 := BitVec.toNat_setWidth ..

/-- Settles O7: the wrapping clause reduces every width to the six-bit sum; R144's examples are evaluated. -/
theorem hashDependsOnLowSixBitsOnly : Obligations.HashDependsOnLowSixBitsOnly :=
  ⟨hash_val, hash_val_lowSixBits, by decide, by decide, by decide, by decide, fun c _ hw => hash_val_wrapping hw c⟩

end Sys2Proof.Machine
end

section
/-! SUPPORT. Opcode bytes written as their bit fields (R80): their value, their class and what they decode to. -/

namespace Sys2Proof

/-! ### Bit fields side by side -/

theorem toNat_append_eq_add {n m : Nat} (x : BitVec n) (y : BitVec m) : (x ++ y).toNat = x.toNat * 2 ^ m + y.toNat := by
  rw [BitVec.toNat_append, ← Nat.shiftLeft_add_eq_or_of_lt y.isLt, Nat.shiftLeft_eq]

theorem toNat_indexByte (I : BitVec 6) : (0b00#2 ++ I : Byte).toNat = I.toNat := by
  rw [toNat_append_eq_add]
  exact Nat.zero_add _

theorem toNat_diffByte (R G B : BitVec 2) : (0b01#2 ++ R ++ G ++ B : Byte).toNat = 64 + 16 * R.toNat + 4 * G.toNat + B.toNat := by
  simp only [toNat_append_eq_add, BitVec.toNat_ofNat]
  omega

theorem toNat_lumaByte (G : BitVec 6) : (0b10#2 ++ G : Byte).toNat = 128 + G.toNat := toNat_append_eq_add ..

theorem toNat_nibbles (R B : BitVec 4) : (R ++ B : Byte).toNat = R.toNat * 16 + B.toNat := toNat_append_eq_add ..

/-! ### What the opcode bytes decode to -/

theorem decode_indexByte (I : BitVec 6) : decode [0b00#2 ++ I] = .ok (.index I.toNat) [] := by
  have hI := I.isLt
  have hc : classify (0b00#2 ++ I) = .index := by rw [classify_eq, toNat_indexByte, if_pos (by omega)]
  have hf : fieldIndex (0b00#2 ++ I) = I.toNat := by rw [fieldIndex, bitField, toNat_indexByte]; omega
  rw [decode_index hc, hf]

theorem decode_diffByte (R G B : BitVec 2) :
    decode [0b01#2 ++ R ++ G ++ B] = .ok (.diff ((R.toNat : Int) - 2) ((G.toNat : Int) - 2) ((B.toNat : Int) - 2)) [] := by
  have hR := R.isLt
  have hG := G.isLt
  have hB := B.isLt
  have hc : classify (0b01#2 ++ R ++ G ++ B) = .diff := by
    rw [classify_eq, toNat_diffByte, if_neg (by omega), if_pos (by omega)]
  have hr : bitField (0b01#2 ++ R ++ G ++ B) 4 2 = R.toNat := by rw [bitField, toNat_diffByte]; omega
  have hg : bitField (0b01#2 ++ R ++ G ++ B) 2 2 = G.toNat := by rw [bitField, toNat_diffByte]; omega
  have hb : bitField (0b01#2 ++ R ++ G ++ B) 0 2 = B.toNat := by rw [bitField, toNat_diffByte]; omega
  rw [decode_diff hc, fieldDiff, hr, hg, hb]

theorem decode_lumaBytes (G : BitVec 6) (R B : BitVec 4) :
    decode [0b10#2 ++ G, R ++ B] = .ok (.luma ((G.toNat : Int) - 32) ((R.toNat : Int) - 8) ((B.toNat : Int) - 8)) [] := by
  have hG := G.isLt
  have hR := R.isLt
  have hB := B.isLt
  have hc : classify (0b10#2 ++ G) = .luma := by
    rw [classify_eq, toNat_lumaByte, if_neg (by omega), if_neg (by omega), if_pos (by omega)]
  have hg : bitField (0b10#2 ++ G) 0 6 = G.toNat := by rw [bitField, toNat_lumaByte]; omega
  have hr : bitField (R ++ B) 4 4 = R.toNat := by rw [bitField, toNat_nibbles]; omega
  have hb : bitField (R ++ B) 0 4 = B.toNat := by rw [bitField, toNat_nibbles]; omega
  rw [decode_luma hc, fieldLuma, hg, hr, hb]

/-- The decoder consumes exactly the length of R89, so bytes that decode with none left over are as many as their opcode byte asks for. -/
theorem opLength_of_decode_exact {b1 : Byte} {data : List Byte} {i : Instr} (h : decode (b1 :: data) = .ok i []) :
    opLength (classify b1) = data.length + 1 := by
  cases hc : classify b1 <;> simp only [decode, hc] at h
  case rgb =>
    match data, h with
    | [_, _, _], _ => rfl
  case rgba =>
    match data, h with
    | [_, _, _, _], _ => rfl
  case luma =>
    match data, h with
    | [_], _ => rfl
  all_goals
    obtain ⟨-, rfl⟩ := Decoded.ok.inj h
    rfl

end Sys2Proof
end

section
/-! SUPPORT. The opcode-resolved pixel step that completes: its result from the registers the Exec procedure leaves, and the step that fetches
the opcode's bytes; then O9 to O13. -/

namespace Sys2Proof.Machine

theorem step_of_fetchesAtCur {u s : State} {bs : List Byte} {i : Instr} (hb : BlockTurn u s) (h : FetchesAtCur s bs)
    (hd : decode bs = .ok i []) : step u = exec i s := by
  obtain ⟨hseq, hrun, hend, hbytes⟩ := h
  cases bs with
  | nil => cases hd
  | cons b1 data =>
    have hread : s.inMem.read s.cur.toNat = b1 := (List.cons.inj hbytes).1
    rw [step_eq_pixelStep hb hseq]
    refine pixelStep_of_decode hrun hend ?_
    rw [hread, opLength_of_decode_exact hd]
    exact (congrArg decode hbytes).trans hd

/-- The cache update, the emit and the pixel count add the same to whatever PREV, RUN and CUR the Exec procedure leaves. -/
theorem opcodeResult_afterExec (i : Instr) (s : State) {k : Nat} (hcur : (afterExec i s).cur = s.cur + BitVec.ofNat 32 k) :
    OpcodeResult s (afterExec i s).cacheUpdate.afterPixel (afterExec i s).prev (afterExec i s).run k := by
  obtain ⟨hpix, hw, hh, -, -, -, hseq, -, hvalid, herr, -⟩ := afterExec_frame i s
  refine ⟨rfl, rfl, hcur, slot_cacheUpdate_hash _, fun j hj => ?_, congrArg (· + 1) hpix, ?_, hvalid, herr⟩
  · rw [afterPixel_slot, slot_cacheUpdate_other _ hj, slot_afterExec]
  · rw [afterPixel_seq, State.npix, hpix, hw, hh, hseq]
    rfl

/-- An opcode that OUT has room for completes, and so does the step that fetches its bytes. -/
theorem exec_completes {i : Instr} {s : State} {bs : List Byte} {c : Color} {n : BitVec 6} {k : Nat} (hroom : s.RoomForPixel)
    (hd : decode bs = .ok i []) (hprev : (afterExec i s).prev = c) (hrun : (afterExec i s).run = n)
    (hcur : (afterExec i s).cur = s.cur + BitVec.ofNat 32 k) :
    ∃ t, exec i s = .next t ∧ OpcodeResult s t c n k ∧ ∀ u, BlockTurn u s → FetchesAtCur s bs → step u = .next t := by
  subst hprev hrun
  have hexec := exec_room i hroom
  exact ⟨_, hexec, opcodeResult_afterExec i s hcur, fun _ hb hf => (step_of_fetchesAtCur hb hf hd).trans hexec⟩

/-- Settles O9: the Exec procedure's PREV is the literal bytes with the old alpha. -/
theorem rgbSetsThreeChannelsAndKeepsAlpha : Obligations.RgbSetsThreeChannelsAndKeepsAlpha := fun _ r g b hroom =>
  exec_completes hroom (decode_rgb (by decide) r g b []) rfl rfl rfl

/-- Settles O10: the Exec procedure's PREV is the four literal bytes. -/
theorem rgbaSetsAllFourChannels : Obligations.RgbaSetsAllFourChannels := fun _ r g b a hroom =>
  exec_completes hroom (decode_rgba (by decide) r g b a []) rfl rfl rfl

/-- Settles O11: a slot number is below 64, so the 6-bit field holds it and the operand names that slot. -/
theorem indexLoadsTheColourOfItsSlot : Obligations.IndexLoadsTheColourOfItsSlot := by
  intro s idx hroom
  have hfield : (BitVec.ofNat 6 idx.val).toNat = idx.val := Nat.mod_eq_of_lt idx.isLt
  have hd : decode [0b00#2 ++ BitVec.ofNat 6 idx.val] = .ok (.index idx.val) [] := by rw [decode_indexByte, hfield]
  exact exec_completes hroom hd (congrArg s.slot (indexSlot_fin idx)) rfl rfl

/-- Settles O12: the operands are the fields minus 2, and each moves its own lane. -/
theorem diffAddsThreeBiasedDeltas : Obligations.DiffAddsThreeBiasedDeltas := fun _ R G B hroom =>
  exec_completes hroom (decode_diffByte R G B) rfl rfl rfl

/-- The operand is the nibble minus 8, so LUMA's red or blue delta is R159's vg − 8 + nibble. -/
theorem lumaDelta_sub_eight (vg nibble : Int) : lumaDelta vg (nibble - 8) = vg - 8 + nibble := by
  rw [lumaDelta]
  omega

/-- Settles O13: the red and the blue lane move by vg − 8 + nibble, the green lane by vg. -/
theorem lumaAddsGreenDeltaToAllChannels : Obligations.LumaAddsGreenDeltaToAllChannels := by
  intro s G R B hroom
  refine exec_completes hroom (decode_lumaBytes G R B) ?_ rfl rfl
  rw [← lumaDelta_sub_eight, ← lumaDelta_sub_eight]
  rfl

end Sys2Proof.Machine
end

section
/-! SUPPORT. The checks of R181 as tests of the bytes of IN, and what a header step leaves when they pass and when they fail; then O32 and O34. -/

namespace Sys2Proof.Machine

/-! ### The bytes of IN the checks read -/

theorem beValue_one (m : Memory) (a : Nat) : beValue (m.bytes a 1) = (m.read a).toNat := by
  simp [Memory.bytes, beValue]

/-- Four bytes have the value of MAGIC exactly when they are ASCII "qoif" (R103). -/
theorem beValue_eq_magicWord_iff (m : Memory) (a : Nat) :
    beValue (m.bytes a 4) = magicWord ↔ m.bytes a 4 = [0x71, 0x6F, 0x69, 0x66] := by
  constructor
  · intro h
    simp only [Memory.bytes, beValue, List.foldl, magicWord] at h
    simp only [Memory.bytes, List.cons.injEq, and_true]
    bv_omega
  · intro h
    rw [h]
    rfl

/-- The order of R181 on the header fields, with R105's condition as its two clauses: a zero dimension, then the bound. -/
theorem headerError_eq (f : HeaderFields) :
    headerError f =
      if f.magic ≠ magicWord then .badMagic
      else if f.w = 0 ∨ f.h = 0 then .badDimensions
      else if ¬ f.h < 400000000 / f.w then .badDimensions
      else if f.ch ≠ 3 ∧ f.ch ≠ 4 then .badChannels
      else if f.cs ≠ 0 ∧ f.cs ≠ 1 then .badColorspace
      else .none := by
  have hd : (!dimensionsOk f.w f.h) = true ↔ (f.w = 0 ∨ f.h = 0) ∨ ¬ f.h < 400000000 / f.w := by
    rw [Bool.not_eq_true', Bool.eq_false_iff, Ne, dimensionsOk_iff]
    tauto
  rw [headerError, if_congr hd rfl rfl]
  by_cases hz : f.w = 0 ∨ f.h = 0
  · rw [if_pos (Or.inl hz), if_pos hz]
  · rw [if_neg hz, if_congr (or_iff_right hz) rfl rfl]

/-- The order of R181 on LEN and the bytes of IN. -/
theorem headerCode_eq (s : State) :
    s.headerCode =
      if s.len.toNat < 14 then .bufferTooShort
      else if s.inMem.bytes 0 4 ≠ [0x71, 0x6F, 0x69, 0x66] then .badMagic
      else if beValue (s.inMem.bytes 4 4) = 0 ∨ beValue (s.inMem.bytes 8 4) = 0 then .badDimensions
      else if ¬ beValue (s.inMem.bytes 8 4) < 400000000 / beValue (s.inMem.bytes 4 4) then .badDimensions
      else if s.inMem.read 12 ≠ 3 ∧ s.inMem.read 12 ≠ 4 then .badChannels
      else if s.inMem.read 13 ≠ 0 ∧ s.inMem.read 13 ≠ 1 then .badColorspace
      else .none := by
  have hbyte (a : Nat) (b : Byte) : beValue (s.inMem.bytes a 1) ≠ b.toNat ↔ s.inMem.read a ≠ b := by
    rw [beValue_one, Ne, BitVec.toNat_inj]
  have hmagic : s.headerFields.magic ≠ magicWord ↔ s.inMem.bytes 0 4 ≠ [0x71, 0x6F, 0x69, 0x66] :=
    not_congr (beValue_eq_magicWord_iff s.inMem 0)
  have hch : s.headerFields.ch ≠ 3 ∧ s.headerFields.ch ≠ 4 ↔ s.inMem.read 12 ≠ 3 ∧ s.inMem.read 12 ≠ 4 :=
    and_congr (hbyte 12 3) (hbyte 12 4)
  have hcs : s.headerFields.cs ≠ 0 ∧ s.headerFields.cs ≠ 1 ↔ s.inMem.read 13 ≠ 0 ∧ s.inMem.read 13 ≠ 1 :=
    and_congr (hbyte 13 0) (hbyte 13 1)
  rw [State.headerCode, headerError_eq, if_congr hmagic rfl rfl, if_congr hch rfl rfl, if_congr hcs rfl rfl]
  rfl

/-! ### The header step's two ends -/

theorem step_eq_headerStep_of_blockTurn {u s : State} (h : BlockTurn u s) (hs : s.seq = .header) : step u = headerStep s := by
  rw [step_of_blockTurn h, blockStep, hs]

theorem headerPassed_errcode (s : State) : s.headerPassed.errcode = s.errcode := by
  cases hm : s.mode with
  | decode => rw [headerPassed_of_decode hm]; rfl
  | validate => rw [headerPassed_of_validate hm]

theorem headerPassed_seq_ne_fail (s : State) : s.headerPassed.seq ≠ .fail := by
  cases hm : s.mode with
  | decode => simp [headerPassed_of_decode hm]
  | validate => simp [headerPassed_of_validate hm]

/-- Settles O32: error entry writes the code of the first failing check, and a passing header step leaves ERRCODE 0. -/
theorem headerStepReportsTheFirstFailingCheck : Obligations.HeaderStepReportsTheFirstFailingCheck := by
  intro u s hb hs he
  rw [step_eq_headerStep_of_blockTurn hb hs, ← headerCode_eq]
  by_cases hc : s.headerCode = .none
  · have hcode : (s.loadHeader s.headerFields).headerPassed.errcode = .none := (headerPassed_errcode _).trans he
    refine ⟨_, headerStep_of_headerCode_none hc, ?_, hcode.trans hc.symm⟩
    exact iff_of_false (headerPassed_seq_ne_fail _) (not_not.2 hcode)
  · exact ⟨_, headerStep_of_headerCode_error rfl hc, iff_of_true rfl hc, rfl⟩

/-- A header step that ends in FAIL is error entry, with the code of the first failing check. -/
theorem eq_enterFail_of_headerStep {s t : State} (h : headerStep s = .next t) (ht : t.seq = .fail) :
    s.headerCode ≠ .none ∧ t = s.enterFail s.headerCode := by
  by_cases hc : s.headerCode = .none
  · obtain rfl := Host.Outcome.next.inj ((headerStep_of_headerCode_none hc).symm.trans h)
    exact absurd ht (headerPassed_seq_ne_fail _)
  · exact ⟨hc, (Host.Outcome.next.inj ((headerStep_of_headerCode_error rfl hc).symm.trans h)).symm⟩

/-- Settles O34: the step is error entry, which writes ERRCODE, STATE, the header registers and the draw counter. -/
theorem errorEntryChangesOnlyStatusAndHeader : Obligations.ErrorEntryChangesOnlyStatusAndHeader := by
  intro u s t hb hs h ht
  rw [step_eq_headerStep_of_blockTurn hb hs] at h
  obtain ⟨hc, rfl⟩ := eq_enterFail_of_headerStep h ht
  exact ⟨hc, rfl, rfl, rfl, rfl, rfl, rfl, rfl, rfl, rfl, rfl, rfl⟩

end Sys2Proof.Machine
end

section
/-! SUPPORT. The faults a turn can answer: OutOverflow from a write of OUT, and the host's read past OUT_BYTES; then O51. -/

namespace Sys2Proof.Machine

theorem headerStep_ne_fault (s : State) (f : Fault) : headerStep s ≠ .fault f := by
  rcases headerStep_cases s with ⟨-, h⟩ | ⟨-, -, h⟩ | ⟨-, -, h⟩ <;> simp [h]

/-- Before the chunk end the fetch lies inside IN (R58) and its bytes decode (R88), so OUT alone can fault. -/
theorem pixelStep_fault {s : State} {f : Fault} (h : pixelStep s = .fault f) : f = .outOverflow := by
  rcases pixelStep_cases s with ⟨-, hs⟩ | ⟨-, ⟨-, hs⟩ | ⟨-, -, i, -, hs⟩ | ⟨-, -, hs⟩⟩ <;> rw [hs] at h
  · exact (Host.Outcome.fault.inj h).symm
  all_goals cases h

theorem blockStep_fault {s : State} {f : Fault} (h : blockStep s = .fault f) : f = .outOverflow := by
  unfold blockStep at h
  split at h
  · exact absurd h (headerStep_ne_fault s f)
  · exact pixelStep_fault h
  all_goals cases h

theorem hostRegWrite_ne_fault (acc : RegAccess) (v : Word) (s : State) (f : Fault) : hostRegWrite acc v s ≠ .fault f := by
  unfold hostRegWrite; split <;> simp

theorem hostRegRead_ne_fault (acc : RegAccess) (s : State) (f : Fault) : hostRegRead acc s ≠ .fault f := by
  unfold hostRegRead; split <;> simp

theorem hostInWrite_ne_fault (a : Word) (v : Byte) (s : State) (f : Fault) : hostInWrite a v s ≠ .fault f := by
  unfold hostInWrite; split <;> simp

theorem writeOut_fault {a : Nat} {v : Byte} {s : State} {f : Fault} (h : writeOut a v s = .fault f) : f = .outOverflow := by
  unfold writeOut at h
  split at h
  · cases h
  · exact (Host.Outcome.fault.inj h).symm

theorem hostOutWrite_fault {a : Word} {v : Byte} {s : State} {f : Fault} (h : hostOutWrite a v s = .fault f) : f = .outOverflow := by
  unfold hostOutWrite at h
  split at h
  · cases h
  · exact writeOut_fault h

theorem hostOutRead_fault {a : Word} {s : State} {f : Fault} (h : hostOutRead a s = .fault f) : f = .outReadOutOfRange := by
  unfold hostOutRead at h
  split at h
  · cases h
  · exact (Host.Outcome.fault.inj h).symm

theorem hostMove_fault {m : HostMove} {s : State} {f : Fault} (h : hostMove m s = .fault f) :
    f = .outOverflow ∨ f = .outReadOutOfRange := by
  cases m with
  | wait => exact Or.inl (blockStep_fault h)
  | regWrite acc v => exact absurd h (hostRegWrite_ne_fault acc v s f)
  | regRead acc => exact absurd h (hostRegRead_ne_fault acc s f)
  | inWrite a v => exact absurd h (hostInWrite_ne_fault a v s f)
  | outWrite a v => exact Or.inl (hostOutWrite_fault h)
  | outRead a => exact Or.inr (hostOutRead_fault h)
  | irqSample => cases h
  | reset => cases h

theorem step_fault {u : State} {f : Fault} (h : step u = .fault f) : f = .outOverflow ∨ f = .outReadOutOfRange := by
  rcases step_cases u with ⟨s, -, hs⟩ | ⟨m, s, -, -, hs⟩ <;> rw [hs] at h
  · exact Or.inl (blockStep_fault h)
  · exact hostMove_fault h

/-- Settles O51: the two faults a step can answer are neither of R186's impossible cases. -/
theorem impossibleFaultsAreUnreachable : Obligations.ImpossibleFaultsAreUnreachable := by
  intro u f h
  rcases step_fault h with rfl | rfl <;> rfl

end Sys2Proof.Machine
end

section
/-! SUPPORT. The host's write to CMD as the command step (R34, R183); then O38. -/

namespace Sys2Proof.Machine

theorem hostRegWrite_word {offset : BitVec 6} (h : offset.toNat % 4 = 0) (v : Word) (s : State) :
    hostRegWrite { offset := offset, size := 4 } v s = .next (s.writeReg offset v) := by
  simp [hostRegWrite, RegAccess.shapeOk, h]

theorem writeReg_cmd (s : State) (v : Word) : s.writeReg 0x00 v = s.writeCmd v := if_pos rfl

theorem writeCmd_accepted {s : State} {v : Word} (hb : s.busy = false) (hv : v = 1 ∨ v = 2) :
    s.writeCmd v = s.commandStep (if v = 1 then .decode else .validate) := by
  rcases hv with rfl | rfl <;> simp [State.writeCmd, hb]

/-- Settles O38: the write is a whole word of CMD, so the step is the command step of R183. -/
theorem commandStepStartsTheHeaderStage : Obligations.CommandStepStartsTheHeaderStage := by
  intro u s v h hb hv
  have hstep : step u = .next (s.commandStep (if v = 1 then .decode else .validate)) := by
    rw [step_of_hostTurn h, hostMove, hostRegWrite_word (by decide), writeReg_cmd, writeCmd_accepted hb hv]
  exact ⟨_, hstep, rfl, rfl, rfl, rfl, rfl, rfl, rfl⟩

end Sys2Proof.Machine
end

section
/-! SUPPORT. Progress: every pixel step of a decode under way counts one pixel, so the pixel stage ends after the pixels that are left, and a
header that passes leaves at most 399,999,999 of them; then O30. -/

namespace Sys2Proof.Machine

/-! ### One pixel step of a decode under way -/

/-- A decode under way does not depend on the registers an opcode may write. -/
theorem State.UnderWay.of_frame {s v : State} (h : s.UnderWay)
    (hv : v = { s with prev := v.prev, run := v.run, cur := v.cur, cache := v.cache }) : v.UnderWay := by
  rw [hv]
  exact ⟨h.noMoves, h.inPixels, h.header.of_eq rfl rfl rfl rfl, h.outWf, h.pixBound, h.room⟩

theorem State.UnderWay.afterPixel_pix_toNat {s : State} (h : s.UnderWay) : s.afterPixel.pix.toNat = s.pix.toNat + 1 := by
  rw [afterPixel_pix, h.pix_add_one]

theorem State.UnderWay.afterPixel_done {s : State} (h : s.UnderWay) (hlast : s.pix.toNat + 1 = s.npix) : s.afterPixel.seq = .done := by
  rw [afterPixel_seq, h.pix_add_one, if_pos hlast]

theorem State.UnderWay.afterPixel {s : State} (h : s.UnderWay) (hmore : s.pix.toNat + 1 < s.npix) : s.afterPixel.UnderWay where
  noMoves := h.noMoves
  inPixels := by rw [afterPixel_seq, h.pix_add_one, if_neg (Nat.ne_of_lt hmore), h.inPixels]
  header := h.header.of_eq rfl rfl rfl rfl
  outWf := Memory.wf_writeBytes h.outWf ..
  pixBound := by rwa [h.afterPixel_pix_toNat, afterPixel_npix]
  room := h.room

theorem pixelStep_answers {s : State} (hroom : s.RoomForPixel) : ∃ t, pixelStep s = .next t := by
  rcases pixelStep_cases s with ⟨hno, -⟩ | ⟨-, ⟨-, hrun⟩ | ⟨-, -, _, -, hopcode⟩ | ⟨-, -, htail⟩⟩
  · exact absurd hroom hno
  · exact ⟨_, hrun⟩
  · exact ⟨_, hopcode⟩
  · exact ⟨_, htail⟩

/-- Whatever the stream holds, the step of a decode under way is the common end of a decode under way at the same pixel. -/
theorem State.UnderWay.step_eq_afterPixel {s : State} (h : s.UnderWay) :
    ∃ v : State, step s = .next v.afterPixel ∧ v.UnderWay ∧ v.pix = s.pix ∧ v.npix = s.npix := by
  obtain ⟨t, ht⟩ := pixelStep_answers h.roomForPixel
  obtain ⟨-, v, rfl, hv⟩ := pixelStep_frame ht
  rw [step_eq_pixelStep (blockTurn_of_noMoves h.noMoves) h.inPixels]
  exact ⟨v, ht, h.of_frame hv, (congrArg State.pix hv :), (congrArg State.npix hv :)⟩

/-- A decode under way with `n` pixels left is in DONE after `n` steps (R128, R207). -/
theorem State.UnderWay.runSteps_done {n : Nat} {s : State} (h : s.UnderWay) (hn : s.pix.toNat + n = s.npix) :
    ∃ t, runSteps n s = .next t ∧ t.seq = .done := by
  induction n generalizing s with
  | zero => exact absurd hn (Nat.ne_of_lt h.pixBound)
  | succ n ih =>
    obtain ⟨v, hstep, hv, hpix, hnpix⟩ := h.step_eq_afterPixel
    rw [← hpix, ← hnpix] at hn
    rw [runSteps, hstep, andThen_next]
    cases n with
    | zero => exact ⟨_, rfl, hv.afterPixel_done hn⟩
    | succ m => exact ih (hv.afterPixel (by omega)) (by rw [hv.afterPixel_pix_toNat, afterPixel_npix]; omega)

/-! ### The header step that starts it -/

/-- The header registers hold every field of a passing header exactly, so the checks it passed hold of them (R104 to R108). -/
theorem headerGood_loadHeader {s : State} (h : headerError s.headerFields = .none) : (s.loadHeader s.headerFields).HeaderGood := by
  obtain ⟨-, hw, hh, hb, -, hcs⟩ := (headerError_none_iff _).1 h
  have hwidth : (BitVec.ofNat 32 s.headerFields.w).toNat = s.headerFields.w := Nat.mod_eq_of_lt (beValue_four_lt ..)
  have hheight : (BitVec.ofNat 32 s.headerFields.h).toNat = s.headerFields.h := Nat.mod_eq_of_lt (beValue_four_lt ..)
  refine ⟨fun h0 => hw ?_, fun h0 => hh ?_, ?_, channels_of_headerError_none h, hcs.imp (congrArg (BitVec.ofNat 8)) (congrArg (BitVec.ofNat 8))⟩
  · exact hwidth.symm.trans (congrArg BitVec.toNat h0)
  · exact hheight.symm.trans (congrArg BitVec.toNat h0)
  · rwa [State.loadHeader_height, State.loadHeader_width, hwidth, hheight]

theorem State.HeaderGood.npix_pos {s : State} (h : s.HeaderGood) : 0 < s.npix := by
  obtain ⟨-, -, -, -, hw, -, hh, -⟩ := passingHeaderBoundsTheImage s h
  exact Nat.mul_pos hw hh

theorem State.HeaderGood.npix_le {s : State} (h : s.HeaderGood) : s.npix ≤ 399999999 := by
  obtain ⟨-, -, -, hN, -⟩ := passingHeaderBoundsTheImage s h
  exact hN

theorem State.HeaderGood.outLen_le {s : State} (h : s.HeaderGood) : s.outLen ≤ 1599999996 := by
  obtain ⟨-, -, -, -, -, -, -, -, hO⟩ := passingHeaderBoundsTheImage s h
  exact hO

/-- Decode start after a passing header, with PIX 0 from the command step and OUT as large as R202 asks, is a decode under way. -/
theorem underWay_decodeStart {s : State} (hg : s.HeaderGood) (hm : s.hostMoves = []) (hw : s.outMem.wf = true) (hp : s.pix = 0)
    (hout : 1599999996 ≤ s.outBytes) : State.UnderWay { s.decodeStart with seq := .pixels } where
  noMoves := hm
  inPixels := rfl
  header := hg.of_eq rfl rfl rfl rfl
  outWf := hw
  pixBound := by
    change s.pix.toNat < s.npix
    rw [hp]
    exact hg.npix_pos
  room := hg.outLen_le.trans hout

/-- A passing header step is the end of a VALIDATE, and leaves a DECODE at most 399,999,999 pixel steps. -/
theorem headerPassed_terminates {s : State} (hg : s.HeaderGood) (hm : s.hostMoves = []) (hw : s.outMem.wf = true) (hp : s.pix = 0)
    (hout : 1599999996 ≤ s.outBytes) : ∃ n ≤ 399999999, ∃ t, runSteps n s.headerPassed = .next t ∧ t.seq = .done := by
  cases hmode : s.mode with
  | validate => exact ⟨0, Nat.zero_le _, _, rfl, by rw [headerPassed_of_validate hmode]⟩
  | decode =>
    rw [headerPassed_of_decode hmode]
    refine ⟨s.npix, hg.npix_le, (underWay_decodeStart hg hm hw hp hout).runSteps_done ?_⟩
    change s.pix.toNat + s.npix = s.npix
    rw [hp]
    exact Nat.zero_add _

/-- Settles O30: one header step, then FAIL, DONE, or one step for each of the at most 399,999,999 pixels R110 allows. -/
theorem everyCommandTerminates : Obligations.EveryCommandTerminates := by
  intro s hinv hm hs hout
  obtain ⟨-, -, hp⟩ := hinv.header hs
  by_cases hc : s.headerCode = .none
  · have hg : (s.loadHeader s.headerFields).HeaderGood := headerGood_loadHeader (headerCode_none hc).2
    obtain ⟨n, hn, t, ht, hdone⟩ := headerPassed_terminates hg hm hinv.outWf hp hout
    refine ⟨n + 1, Nat.succ_le_succ hn, t, ?_, Or.inl hdone⟩
    rw [runSteps, step_eq_headerStep hm hs, headerStep_of_headerCode_none hc, andThen_next, ht]
  · refine ⟨1, by decide, s.enterFail s.headerCode, ?_, Or.inr rfl⟩
    rw [runSteps_one, step_eq_headerStep hm hs, headerStep_of_headerCode_error rfl hc]

end Sys2Proof.Machine
end

section
/-! SUPPORT. The register window after the reset event (R33, R200); then O45. -/

namespace Sys2Proof.Machine

theorem statusWord_resetEvent (s : State) : s.resetEvent.statusWord = 0 := by
  simp [State.statusWord, State.busy, SeqState.busy, SeqState.code, Mode.code, bit]

theorem errWord_resetEvent (s : State) : s.resetEvent.errWord = 0 := by
  simp [State.errWord, ErrCode.code]

/-- Every register the host can read has a reset value, and it is 0 (R20, R33). -/
theorem readReg_resetEvent (s : State) (offset : BitVec 6) : s.resetEvent.readReg offset = 0 := by
  simp [State.readReg, statusWord_resetEvent, errWord_resetEvent]

/-- Settles O45: the turn is the reset event, which sets each named register and keeps the byte spaces. -/
theorem resetEventClearsTheRegisters : Obligations.ResetEventClearsTheRegisters := by
  intro u s h
  have hstep : step u = .next s.resetEvent := step_of_hostTurn h
  exact ⟨_, hstep, rfl, rfl, rfl, rfl, rfl, rfl, rfl, rfl, rfl, rfl, rfl, rfl, readReg_resetEvent s, rfl, rfl, rfl, rfl, rfl⟩

end Sys2Proof.Machine
end

section
/-! SUPPORT. The decoder and the encoder as inverses (R80, R87 to R91): each form's encoding decodes to it, and each form's fields encode to the
bytes they were taken from; then O1, O2, O3 and O5. -/

namespace Sys2Proof

/-! ### From an instruction to its bytes and back -/

theorem classify_encode {i : Instr} (hw : i.wellFormed = true) {b1 : Byte} {data : List Byte} (he : encode i = b1 :: data) :
    classify b1 = i.opcode := by
  have hlaw : Laws.EncodeLength.Statement i := by
    cases i with
    | rgb r g b => exact Laws.EncodeLength.rgb r g b
    | rgba r g b a => exact Laws.EncodeLength.rgba r g b a
    | index idx => exact Laws.EncodeLength.index idx
    | diff dr dg db => exact Laws.EncodeLength.diff dr dg db
    | luma dg drg dbg => exact Laws.EncodeLength.luma dg drg dbg
    | run n => exact Laws.EncodeLength.run n
  obtain ⟨-, c1, _, hc, hop⟩ := hlaw hw
  obtain ⟨rfl, -⟩ := List.cons.inj (hc.symm.trans he)
  exact hop

theorem decode_encode_index {idx : Nat} (hw : (Instr.index idx).wellFormed = true) (rest : List Byte) :
    decode (encode (.index idx) ++ rest) = .ok (.index idx) rest := by
  have hidx : idx ≤ 63 := of_decide_eq_true hw
  have hb := encByte_toNat (n := (0x00 : Int) + idx) (by omega) (by omega)
  have hf : fieldIndex (encByte (0x00 + idx)) = idx := by rw [fieldIndex, bitField]; omega
  exact (decode_index (classify_encode hw rfl) rest).trans (by rw [hf])

theorem decode_encode_diff {dr dg db : Int} (hw : (Instr.diff dr dg db).wellFormed = true) (rest : List Byte) :
    decode (encode (.diff dr dg db) ++ rest) = .ok (.diff dr dg db) rest := by
  refine (decode_diff (classify_encode hw rfl) rest).trans ?_
  simp only [Instr.wellFormed, diffDeltaOk, Bool.and_eq_true, decide_eq_true_eq] at hw
  have hb := encByte_toNat (n := 0x40 + 16 * (dr + 2) + 4 * (dg + 2) + (db + 2)) (by omega) (by omega)
  simp only [fieldDiff, bitField, Decoded.ok.injEq, Instr.diff.injEq, and_true]
  omega

theorem decode_encode_luma {dg drg dbg : Int} (hw : (Instr.luma dg drg dbg).wellFormed = true) (rest : List Byte) :
    decode (encode (.luma dg drg dbg) ++ rest) = .ok (.luma dg drg dbg) rest := by
  refine (decode_luma (classify_encode hw rfl) _ rest).trans ?_
  simp only [Instr.wellFormed, lumaGreenOk, lumaSubOk, Bool.and_eq_true, decide_eq_true_eq] at hw
  have hb1 := encByte_toNat (n := 0x80 + (dg + 32)) (by omega) (by omega)
  have hb2 := encByte_toNat (n := 16 * (drg + 8) + (dbg + 8)) (by omega) (by omega)
  simp only [fieldLuma, bitField, Decoded.ok.injEq, Instr.luma.injEq, and_true]
  omega

theorem decode_encode_run {n : Nat} (hw : (Instr.run n).wellFormed = true) (rest : List Byte) :
    decode (encode (.run n) ++ rest) = .ok (.run n) rest := by
  have hn : n ≤ 61 := of_decide_eq_true hw
  have hb := encByte_toNat (n := (0xC0 : Int) + n) (by omega) (by omega)
  have hf : fieldRun (encByte (0xC0 + n)) = n := by rw [fieldRun, bitField]; omega
  exact (decode_run (classify_encode hw rfl) rest).trans (by rw [hf])

/-- Settles O1: the first byte has the instruction's class, and each field of the encoded bytes is the operand plus its bias. -/
theorem decodeOfEncodeReturnsTheInstruction : Obligations.DecodeOfEncodeReturnsTheInstruction := by
  intro i rest hw
  cases i with
  | rgb r g b => exact decode_rgb (by decide) r g b rest
  | rgba r g b a => exact decode_rgba (by decide) r g b a rest
  | index idx => exact decode_encode_index hw rest
  | diff dr dg db => exact decode_encode_diff hw rest
  | luma dg drg dbg => exact decode_encode_luma hw rest
  | run n => exact decode_encode_run hw rest

/-! ### From bytes to an instruction and back -/

theorem encByte_of_eq_toNat {n : Int} {b : Byte} (h : n = b.toNat) : encByte n = b := by
  rw [h, encByte, BitVec.ofInt_natCast, BitVec.ofNat_toNat, BitVec.setWidth_eq]

/-- The first bytes of a class: from the first number up to below the second (R80, R86). -/
def Opcode.byteRange : Opcode → Nat × Nat
  | .index => (0x00, 0x40)
  | .diff => (0x40, 0x80)
  | .luma => (0x80, 0xC0)
  | .run => (0xC0, 0xFE)
  | .rgb => (0xFE, 0xFF)
  | .rgba => (0xFF, 0x100)

theorem toNat_of_classify {b1 : Byte} {op : Opcode} (h : classify b1 = op) : op.byteRange.1 ≤ b1.toNat ∧ b1.toNat < op.byteRange.2 := by
  have hb := b1.isLt
  rw [← h, classify_eq]
  split_ifs <;> simp only [Opcode.byteRange] <;> omega

theorem eq_of_classify_rgb {b1 : Byte} (h : classify b1 = .rgb) : b1 = 0xFE := by
  have hb : 0xFE ≤ b1.toNat ∧ b1.toNat < 0xFF := toNat_of_classify h
  exact BitVec.eq_of_toNat_eq (show b1.toNat = 0xFE by omega)

theorem eq_of_classify_rgba {b1 : Byte} (h : classify b1 = .rgba) : b1 = 0xFF := by
  have hb : 0xFF ≤ b1.toNat ∧ b1.toNat < 0x100 := toNat_of_classify h
  exact BitVec.eq_of_toNat_eq (show b1.toNat = 0xFF by omega)

theorem encode_fieldIndex {b1 : Byte} (h : classify b1 = .index) : encode (.index (fieldIndex b1)) = [b1] := by
  have hb : 0x00 ≤ b1.toNat ∧ b1.toNat < 0x40 := toNat_of_classify h
  refine congrArg ([·]) (encByte_of_eq_toNat ?_)
  rw [fieldIndex, bitField]
  omega

theorem encode_fieldDiff {b1 : Byte} (h : classify b1 = .diff) : encode (fieldDiff b1) = [b1] := by
  have hb : 0x40 ≤ b1.toNat ∧ b1.toNat < 0x80 := toNat_of_classify h
  refine congrArg ([·]) (encByte_of_eq_toNat ?_)
  simp only [bitField]
  omega

theorem encode_fieldLuma {b1 : Byte} (h : classify b1 = .luma) (b2 : Byte) : encode (fieldLuma b1 b2) = [b1, b2] := by
  have hb1 : 0x80 ≤ b1.toNat ∧ b1.toNat < 0xC0 := toNat_of_classify h
  have hb2 := b2.isLt
  refine congrArg₂ ([·, ·]) (encByte_of_eq_toNat ?_) (encByte_of_eq_toNat ?_)
  all_goals
    simp only [bitField]
    omega

theorem encode_fieldRun {b1 : Byte} (h : classify b1 = .run) : encode (.run (fieldRun b1)) = [b1] := by
  have hb : 0xC0 ≤ b1.toNat ∧ b1.toNat < 0xFE := toNat_of_classify h
  refine congrArg ([·]) (encByte_of_eq_toNat ?_)
  rw [fieldRun, bitField]
  omega

theorem wellFormed_fieldIndex (b1 : Byte) : (Instr.index (fieldIndex b1)).wellFormed = true :=
  decide_eq_true (Nat.le_of_lt_succ (bitField_lt b1 0 6))

theorem wellFormed_fieldDiff (b1 : Byte) : (fieldDiff b1).wellFormed = true := by
  have hr : bitField b1 4 2 < 4 := bitField_lt b1 4 2
  have hg : bitField b1 2 2 < 4 := bitField_lt b1 2 2
  have hb : bitField b1 0 2 < 4 := bitField_lt b1 0 2
  simp only [fieldDiff, Instr.wellFormed, diffDeltaOk, Bool.and_eq_true, decide_eq_true_eq]
  omega

theorem wellFormed_fieldLuma (b1 b2 : Byte) : (fieldLuma b1 b2).wellFormed = true := by
  have hg : bitField b1 0 6 < 64 := bitField_lt b1 0 6
  have hr : bitField b2 4 4 < 16 := bitField_lt b2 4 4
  have hb : bitField b2 0 4 < 16 := bitField_lt b2 0 4
  simp only [fieldLuma, Instr.wellFormed, lumaGreenOk, lumaSubOk, Bool.and_eq_true, decide_eq_true_eq]
  omega

/-- RUN's field stops at 61 because the bytes of 62 and 63 are RGB and RGBA (R86). -/
theorem wellFormed_fieldRun {b1 : Byte} (h : classify b1 = .run) : (Instr.run (fieldRun b1)).wellFormed = true := by
  have hb : 0xC0 ≤ b1.toNat ∧ b1.toNat < 0xFE := toNat_of_classify h
  refine decide_eq_true ?_
  rw [fieldRun, bitField]
  omega

/-- Settles O2: on the bytes of its class each field is below its width, and the encoder's sum puts every field back in its place. -/
theorem decodedInstructionEncodesToTheBytesRead : Obligations.DecodedInstructionEncodesToTheBytesRead := by
  intro bs i rest h
  cases bs with
  | nil => cases h
  | cons b1 data =>
    cases hc : classify b1 <;> simp only [decode, hc] at h
    case rgb =>
      match data, h with
      | r :: g :: b :: _, h =>
        obtain ⟨rfl, rfl⟩ := Decoded.ok.inj h
        exact ⟨rfl, by rw [eq_of_classify_rgb hc]; rfl⟩
    case rgba =>
      match data, h with
      | r :: g :: b :: a :: _, h =>
        obtain ⟨rfl, rfl⟩ := Decoded.ok.inj h
        exact ⟨rfl, by rw [eq_of_classify_rgba hc]; rfl⟩
    case index =>
      obtain ⟨rfl, rfl⟩ := Decoded.ok.inj h
      exact ⟨wellFormed_fieldIndex b1, by rw [encode_fieldIndex hc]; rfl⟩
    case diff =>
      obtain ⟨rfl, rfl⟩ := Decoded.ok.inj h
      exact ⟨wellFormed_fieldDiff b1, by rw [encode_fieldDiff hc]; rfl⟩
    case luma =>
      match data, h with
      | b2 :: _, h =>
        obtain ⟨rfl, rfl⟩ := Decoded.ok.inj h
        exact ⟨wellFormed_fieldLuma b1 b2, by rw [encode_fieldLuma hc]; rfl⟩
    case run =>
      obtain ⟨rfl, rfl⟩ := Decoded.ok.inj h
      exact ⟨wellFormed_fieldRun hc, by rw [encode_fieldRun hc]; rfl⟩

/-! ### The class and the length of what is decoded -/

theorem opcode_of_decode {b1 : Byte} {data rest : List Byte} {i : Instr} (h : decode (b1 :: data) = .ok i rest) :
    i.opcode = classify b1 := by
  obtain ⟨hw, he⟩ := decodedInstructionEncodesToTheBytesRead _ _ _ h
  cases hi : encode i with
  | nil => cases i <;> cases hi
  | cons c cs =>
    rw [hi] at he
    obtain ⟨rfl, -⟩ := List.cons.inj he
    exact (classify_encode hw hi).symm

theorem decode_of_enoughData {b1 : Byte} {data : List Byte} (h : opLength (classify b1) ≤ data.length + 1) :
    ∃ i, decode (b1 :: data) = .ok i (data.drop (opLength (classify b1) - 1)) := by
  cases hc : classify b1 <;> rw [hc] at h
  case rgb =>
    match data, h with
    | r :: g :: b :: rest, _ => exact ⟨_, decode_rgb hc r g b rest⟩
  case rgba =>
    match data, h with
    | r :: g :: b :: a :: rest, _ => exact ⟨_, decode_rgba hc r g b a rest⟩
  case index => exact ⟨_, decode_index hc data⟩
  case diff => exact ⟨_, decode_diff hc data⟩
  case luma =>
    match data, h with
    | b2 :: rest, _ => exact ⟨_, decode_luma hc b2 rest⟩
  case run => exact ⟨_, decode_run hc data⟩

/-- Only the classes with data bytes can lack them: RGB has three, RGBA four, LUMA one. -/
theorem decode_of_missingData {b1 : Byte} {data : List Byte} (h : data.length + 1 < opLength (classify b1)) :
    decode (b1 :: data) = .rejected (.missingData (classify b1)) := by
  cases hc : classify b1 <;> rw [hc] at h <;> simp only [opLength] at h
  case rgb =>
    match data, h with
    | [], _ | [_], _ | [_, _], _ => simp [decode, hc]
  case rgba =>
    match data, h with
    | [], _ | [_], _ | [_, _], _ | [_, _, _], _ => simp [decode, hc]
  case luma =>
    match data, h with
    | [], _ => simp [decode, hc]
  all_goals omega

/-- Settles O3: with the data bytes of its class there the decoder answers, and what it answers has the class of the first byte. -/
theorem everyOpcodeByteDecodesWithItsLength : Obligations.EveryOpcodeByteDecodesWithItsLength := by
  intro b1 data
  refine ⟨fun h => ?_, decode_of_missingData, by cases classify b1 <;> rfl⟩
  obtain ⟨i, hi⟩ := decode_of_enoughData h
  exact ⟨i, hi, opcode_of_decode hi⟩

/-- Settles O5: seven words, each evaluated. -/
theorem handWrittenWordsDecode : Obligations.HandWrittenWordsDecode :=
  ⟨by decide, by decide, by decide, by decide, by decide, by decide, by decide⟩

end Sys2Proof
end

section
/-! SUPPORT. What every opcode's exec leaves, read off its one shape: the registers, the cache slot, the pixel slot, and the fault without room; then
O14 to O19, O25 and O26. -/

namespace Sys2Proof.Machine

/-! ### Completion of RUN -/

theorem runCount_toNat (n : BitVec 6) : runCount n.toNat = n := by
  rw [runCount, BitVec.ofNat_toNat, BitVec.setWidth_eq]

/-- Settles O14: RUN's byte decodes to its 6-bit field for n up to 61, and the Exec procedure stores that field and keeps PREV. -/
theorem runStoresTheRepeatCount : Obligations.RunStoresTheRepeatCount := by
  intro s n hn hroom
  have hd : decode [0b11#2 ++ n] = .ok (.run n.toNat) [] := by rw [decode_run (classify_runByte hn), fieldRun_runByte]
  exact exec_completes hroom hd rfl (runCount_toNat n) rfl

/-! ### Registers -/

theorem run_afterExec {i : Instr} (h : i.opcode ≠ .run) (s : State) : (afterExec i s).run = s.run := by
  cases i with
  | run n => exact absurd rfl h
  | _ => rfl

theorem prev_afterExec {i : Instr} (h : i.opcode = .run) (s : State) : (afterExec i s).prev = s.prev := by
  cases i with
  | run n => rfl
  | _ => cases h

theorem alpha_afterExec {i : Instr} (h : i.opcode = .rgb ∨ i.opcode = .diff ∨ i.opcode = .luma) (s : State) :
    (afterExec i s).prev.a = s.prev.a := by
  cases i with
  | rgb r g b => rfl
  | diff dr dg db => rfl
  | luma dg drg dbg => rfl
  | _ => simp [Instr.opcode] at h

/-- Settles O15: the Exec procedure writes PREV, RUN and CUR alone, and the common end of the step adds no register of this list. -/
theorem opcodesLeaveOtherRegistersUnchanged : Obligations.OpcodesLeaveOtherRegistersUnchanged := by
  intro i s t h
  obtain ⟨-, rfl⟩ := exec_inv h
  obtain ⟨-, hw, hh, hc, hcs, hl, -, hm, hv, he, -, -, ho, hhm, hhd, hd⟩ := afterExec_frame i s
  exact ⟨hw, hh, hc, hcs, hl, hm, hv, he, ho, hhm, hhd, hd, fun hi => run_afterExec hi s, fun hi => prev_afterExec hi s,
    fun hi => alpha_afterExec hi s⟩

/-! ### The cache -/

/-- Settles O16: the cache update is the only write of CACHE, and it stores PREV in its own slot. -/
theorem opcodesWriteExactlyOneCacheSlot : Obligations.OpcodesWriteExactlyOneCacheSlot := by
  intro i s t h
  obtain ⟨-, rfl⟩ := exec_inv h
  exact ⟨slot_cacheUpdate_hash _, fun j hj => (slot_cacheUpdate_other (afterExec i s) hj).trans (slot_afterExec i s j)⟩

theorem prev_of_exec_index {s t : State} {idx : Fin Config.cacheSlots} (h : exec (.index idx.val) s = .next t) :
    t.prev = s.slot idx := by
  obtain ⟨-, rfl⟩ := exec_inv h
  exact congrArg s.slot (indexSlot_fin idx)

theorem cache_eq_of_slots {s t : State} (h : ∀ j, t.slot j = s.slot j) : t.cache = s.cache :=
  Vector.ext fun j hj => h ⟨j, hj⟩

/-- Settles O25: slot Hash(PREV) holds PREV, so INDEX reads PREV back, and the one slot it writes is that slot, with the value it holds. -/
theorem indexOfTheSlotJustWritten : Obligations.IndexOfTheSlotJustWritten := by
  intro i s t v hi hv
  obtain ⟨ht, -⟩ := opcodesWriteExactlyOneCacheSlot i s t hi
  obtain ⟨hsame, hother⟩ := opcodesWriteExactlyOneCacheSlot _ t v hv
  have hprev : v.prev = t.prev := (prev_of_exec_index hv).trans ht
  rw [hprev] at hsame hother
  refine ⟨hprev, cache_eq_of_slots fun j => ?_⟩
  by_cases hj : j = hash t.prev
  · rw [hj, hsame, ht]
  · exact hother j hj

/-- Settles O26: INDEX loads CACHE_INIT, and the slot of Hash(CACHE_INIT) is slot 0. -/
theorem indexOfAnUnwrittenSlotWritesSlotZero : Obligations.IndexOfAnUnwrittenSlotWritesSlotZero := by
  intro s t idx hidx h
  have hprev : t.prev = cacheInit := (prev_of_exec_index h).trans hidx
  have hslots := opcodesWriteExactlyOneCacheSlot _ s t h
  rw [hprev, hash_cacheInit] at hslots
  exact ⟨hprev, hslots⟩

/-! ### The two byte spaces -/

theorem outMem_of_exec {i : Instr} {s t : State} (h : exec i s = .next t) :
    t.outMem = s.outMem.writeBytes s.slotBase (colorBytes s.channels t.prev) := by
  obtain ⟨-, rfl⟩ := exec_inv h
  obtain ⟨hpix, -, -, hc, -, -, -, -, -, -, -, hout, -⟩ := afterExec_frame i s
  rw [afterPixel_outMem, pixelBytes_eq, State.slotBase, hpix, hc, hout]
  rfl

theorem inMem_of_exec {i : Instr} {s t : State} (h : exec i s = .next t) : t.inMem = s.inMem := by
  obtain ⟨-, rfl⟩ := exec_inv h
  obtain ⟨-, -, -, -, -, -, -, -, -, -, hin, -⟩ := afterExec_frame i s
  exact hin

/-- Settles O17: exec makes one write of OUT, of the new PREV's bytes at the slot's base, and none of IN. -/
theorem opcodesStoreOnlyTheirPixelSlot : Obligations.OpcodesStoreOnlyTheirPixelSlot := by
  intro i s t h
  have hl : (colorBytes s.channels t.prev).length = s.emitCount := length_colorBytes ..
  rw [outMem_of_exec h, inMem_of_exec h, ← hl]
  exact ⟨Memory.read_writeBytes_outside _ _ _, fun hw => Memory.bytes_writeBytes hw .., fun _ => rfl⟩

theorem pixelStep_noRoom {s : State} (h : ¬ s.RoomForPixel) : pixelStep s = .fault .outOverflow := by
  rcases pixelStep_cases s with ⟨-, hs⟩ | ⟨hroom, -⟩
  · exact hs
  · exact absurd hroom h

/-- Settles O18: all three branches of the pixel step end in the emit, which does not fit. -/
theorem noRoomInOutIsOutOverflow : Obligations.NoRoomInOutIsOutOverflow := fun _ hroom =>
  ⟨fun i => exec_noRoom i hroom, fun _ hb hs => (step_eq_pixelStep hb hs).trans (pixelStep_noRoom hroom)⟩

/-! ### The step that fetches -/

/-- Settles O19: the bytes at CUR decode to the instruction they encode (O1). -/
theorem stepExecutesTheInstructionAtCur : Obligations.StepExecutesTheInstructionAtCur := by
  intro u s i hb hw hf
  have hd : decode (encode i) = .ok i [] := by
    rw [← List.append_nil (encode i)]
    exact decodeOfEncodeReturnsTheInstruction i [] hw
  exact step_of_fetchesAtCur hb hf hd

end Sys2Proof.Machine
end

section
/-! SUPPORT. The pixel step inverted: its three branches before the common end, the pixel count with completion, and the cursor; then O20 to O22
and O54. -/

namespace Sys2Proof.Machine

/-! ### The two branches that repeat PREV -/

/-- Settles O20: the branch changes RUN alone before the common end, and what the step emits is O23. -/
theorem runContinuationRepeatsThePixel : Obligations.RunContinuationRepeatsThePixel := by
  intro u s hb hs hrun hroom hw
  have hstep : step u = .next (s.setRun (s.run - 1)).afterPixel := by
    rw [step_eq_pixelStep hb hs, pixelStep_run hrun]
    exact finishPixel_room hroom
  obtain ⟨hemit, -⟩ := everyPixelStepEmitsPrev u s _ hb hs hw hstep
  have hpred : (s.run - 1).toNat = s.run.toNat - 1 := BitVec.toNat_sub_of_le (by bv_omega)
  exact ⟨_, hstep, hpred, rfl, rfl, rfl, rfl, rfl, rfl, rfl, hemit⟩

/-- Settles O21: the branch is the common end alone, and what the step emits is O23. -/
theorem tailFillRepeatsThePixel : Obligations.TailFillRepeatsThePixel := by
  intro u s hb hs hrun hend hroom hw
  have hstep : step u = .next s.afterPixel := by
    rw [step_eq_pixelStep hb hs, pixelStep_tail hrun (Nat.not_lt.2 hend), finishPixel_room hroom]
  obtain ⟨hemit, -⟩ := everyPixelStepEmitsPrev u s _ hb hs hw hstep
  exact ⟨_, hstep, rfl, rfl, rfl, rfl, rfl, rfl, rfl, rfl, hemit⟩

/-! ### The pixel count and completion -/

theorem afterPixel_seq_eq_done_iff {s : State} (hs : s.seq = .pixels) : s.afterPixel.seq = .done ↔ s.afterPixel.pix.toNat = s.npix := by
  rw [afterPixel_seq, afterPixel_pix, hs]
  split
  · next h => exact iff_of_true rfl h
  · next h => exact iff_of_false (by decide) h

theorem irqDone_iff {s : State} : s.irqDone = true ↔ s.seq = .done ∨ s.seq = .fail := by
  rw [State.irqDone]
  cases s.seq <;> simp [SeqState.finished]

/-- Settles O22: the common end counts the pixel and tests PIX against NPIX; no branch writes a header register or a flag before it. -/
theorem pixelStepCompletesAtTheLastPixel : Obligations.PixelStepCompletesAtTheLastPixel := by
  intro u s t hb hs h
  rw [step_eq_pixelStep hb hs] at h
  have hseq : t.seq = .pixels ∨ t.seq = .done := pixelStep_seq hs h
  obtain ⟨-, v, rfl, hv⟩ := pixelStep_frame h
  have hvs : v.seq = .pixels := by rw [hv]; exact hs
  have hnpix : v.npix = s.npix := (congrArg State.npix hv :)
  have hdone : v.afterPixel.seq = .done ↔ v.afterPixel.pix.toNat = s.npix := hnpix ▸ afterPixel_seq_eq_done_iff hvs
  have hfail : v.afterPixel.seq ≠ .fail := by rcases hseq with h | h <;> rw [h] <;> decide
  refine ⟨?_, hdone, hseq.resolve_right, ?_, ?_⟩
  · rw [hv]; rfl
  · rw [irqDone_iff, or_iff_left hfail, hdone]
  · rw [hv]; exact ⟨rfl, rfl, rfl, rfl, rfl, rfl⟩

/-! ### The branches -/

/-- The registers a pixel step leaves before its common end: one case per branch of R120, with the branch's guard. -/
inductive PixelBranch (s : State) : State → Prop where
  | runContinue (running : s.run ≠ 0) : PixelBranch s (s.setRun (s.run - 1))
  | opcode (i : Instr) (noRun : s.run = 0) (beforeEnd : s.cur.toNat + 8 < s.len.toNat) (wellFormed : i.wellFormed = true)
      (atCur : i.opcode = classify (s.inMem.read s.cur.toNat)) : PixelBranch s (afterExec i s).cacheUpdate
  | tailFill (noRun : s.run = 0) (chunkOver : s.len.toNat ≤ s.cur.toNat + 8) : PixelBranch s s

theorem Memory.bytes_eq_cons (m : Memory) (a : Nat) {n : Nat} (hn : 1 ≤ n) : m.bytes a n = m.read a :: m.bytes (a + 1) (n - 1) := by
  obtain ⟨k, rfl⟩ := Nat.exists_eq_add_of_le' hn
  rfl

theorem pixelStep_inv {s t : State} (h : pixelStep s = .next t) : s.RoomForPixel ∧ ∃ v, t = v.afterPixel ∧ PixelBranch s v := by
  rcases pixelStep_cases s with ⟨-, hs⟩ | ⟨hroom, hbranch⟩
  · cases hs.symm.trans h
  refine ⟨hroom, ?_⟩
  rcases hbranch with ⟨hrun, hs⟩ | ⟨hrun, he, i, hd, hs⟩ | ⟨hrun, he, hs⟩ <;> obtain rfl := Host.Outcome.next.inj (hs.symm.trans h)
  · exact ⟨_, rfl, .runContinue hrun⟩
  · obtain ⟨hw, -⟩ := decodedInstructionEncodesToTheBytesRead _ _ _ hd
    rw [Memory.bytes_eq_cons _ _ (opLength_pos _)] at hd
    exact ⟨_, rfl, .opcode i hrun he hw (opcode_of_decode hd)⟩
  · exact ⟨_, rfl, .tailFill hrun (Nat.not_lt.1 he)⟩

/-! ### The cursor -/

theorem cur_afterExec (i : Instr) (s : State) : (afterExec i s).cur = s.cur + BitVec.ofNat 32 (opLength i.opcode) := by
  cases i <;> rfl

/-- Before the chunk end CUR + L stays below LEN, so it does not wrap. -/
theorem cur_afterExec_toNat {s : State} (he : s.cur.toNat + 8 < s.len.toNat) (i : Instr) :
    (afterExec i s).cur.toNat = s.cur.toNat + opLength i.opcode := by
  have hl := opLength_le i.opcode
  have hlen := s.len.isLt
  rw [cur_afterExec, BitVec.toNat_add, BitVec.toNat_ofNat]
  omega

/-- Settles O54: only an opcode moves CUR, by its length of at most 5 from at most LEN − 9. -/
theorem cursorOnlyMovesForward : Obligations.CursorOnlyMovesForward := by
  intro u s t hb hs h
  rw [step_eq_pixelStep hb hs] at h
  obtain ⟨-, v, rfl, hv⟩ := pixelStep_inv h
  cases hv with
  | runContinue hrun => exact Or.inl ⟨rfl, Or.inl hrun⟩
  | tailFill hrun hend => exact Or.inl ⟨rfl, Or.inr hend⟩
  | opcode i hrun he hw hat =>
    have hl := opLength_le i.opcode
    have hcur : (afterExec i s).cur.toNat = s.cur.toNat + opLength i.opcode := cur_afterExec_toNat he i
    obtain ⟨-, -, -, -, -, hlen, -⟩ := afterExec_frame i s
    refine Or.inr ⟨hrun, hat ▸ hcur, ?_⟩
    rw [afterPixel_len, hlen, afterPixel_cur, State.cacheUpdate_cur]
    omega

end Sys2Proof.Machine
end

section
/-! SUPPORT. The step inverted: what a turn of the block and what a move of the host can leave, one case per way it can act; then O24, O52, O53
and O55 to O57. -/

namespace Sys2Proof.Machine

/-! ### A turn of the block -/

/-- What a turn of the block leaves: the header step's ends (R108), a pixel step's branch with its common end (R120), or nothing (R184, R194). -/
inductive BlockEffect (s : State) : State → Prop where
  | quiet (idleDoneOrFail : s.seq = .idle ∨ s.seq = .done ∨ s.seq = .fail) : BlockEffect s s
  | headerFailed (inHeader : s.seq = .header) (failed : s.headerCode ≠ .none) : BlockEffect s (s.enterFail s.headerCode)
  | validated (inHeader : s.seq = .header) (passed : s.headerCode = .none) (command : s.mode = .validate) :
      BlockEffect s { s.loadHeader s.headerFields with seq := .done }
  | decodeStarted (inHeader : s.seq = .header) (passed : s.headerCode = .none) (command : s.mode = .decode) :
      BlockEffect s { (s.loadHeader s.headerFields).decodeStart with seq := .pixels }
  | pixel (v : State) (inPixels : s.seq = .pixels) (room : s.RoomForPixel) (branch : PixelBranch s v) : BlockEffect s v.afterPixel

theorem headerStep_effect {s : State} (hs : s.seq = .header) : ∃ t, headerStep s = .next t ∧ BlockEffect s t ∧ t.seq ≠ .header := by
  by_cases hc : s.headerCode = .none
  · have hstep := headerStep_of_headerCode_none hc
    cases hm : s.mode with
    | decode =>
      rw [headerPassed_of_decode (s := s.loadHeader _) hm] at hstep
      exact ⟨_, hstep, .decodeStarted hs hc hm, by simp⟩
    | validate =>
      rw [headerPassed_of_validate (s := s.loadHeader _) hm] at hstep
      exact ⟨_, hstep, .validated hs hc hm, by simp⟩
  · exact ⟨_, headerStep_of_headerCode_error rfl hc, .headerFailed hs hc, by simp⟩

theorem blockStep_inv {s t : State} (h : blockStep s = .next t) : BlockEffect s t := by
  cases hs : s.seq <;> rw [blockStep, hs] at h
  case header =>
    obtain ⟨t', ht', heffect, -⟩ := headerStep_effect hs
    obtain rfl := Host.Outcome.next.inj (ht'.symm.trans h)
    exact heffect
  case pixels =>
    obtain ⟨hroom, v, rfl, hv⟩ := pixelStep_inv h
    exact .pixel v hs hroom hv
  all_goals
    obtain rfl := Host.Outcome.next.inj h
    exact .quiet (by simp [hs])

theorem PixelBranch.frame {s v : State} (h : PixelBranch s v) :
    v = { s with prev := v.prev, run := v.run, cur := v.cur, cache := v.cache } := by
  cases h with
  | runContinue _ => rfl
  | opcode i _ _ _ _ => cases i <;> rfl
  | tailFill _ _ => rfl

/-- Settles O53: the header step answers in each of its ends, FAIL, DONE and PIXELS. -/
theorem headerStepLeavesHeader : Obligations.HeaderStepLeavesHeader := by
  intro u s hb hs
  obtain ⟨t, ht, -, hseq⟩ := headerStep_effect hs
  exact ⟨t, (step_eq_headerStep_of_blockTurn hb hs).trans ht, hseq⟩

/-- Settles O55: error entry, header load, decode start and the pixel step each leave the list alone. -/
theorem blockNeverWritesInOrLen : Obligations.BlockNeverWritesInOrLen := by
  intro u s t hb h
  rw [step_of_blockTurn hb] at h
  cases blockStep_inv h with
  | quiet _ => exact ⟨rfl, rfl, rfl, rfl, rfl, rfl⟩
  | headerFailed _ _ => exact ⟨rfl, rfl, rfl, rfl, rfl, rfl⟩
  | validated _ _ _ => exact ⟨rfl, rfl, rfl, rfl, rfl, rfl⟩
  | decodeStarted _ _ _ => exact ⟨rfl, rfl, rfl, rfl, rfl, rfl⟩
  | pixel v _ _ hv => rw [hv.frame]; exact ⟨rfl, rfl, rfl, rfl, rfl, rfl⟩

/-- Settles O56: outside PIXELS the block writes no OUT byte in any case, and of the datapath only decode start writes. -/
theorem headerStepWritesNoOut : Obligations.HeaderStepWritesNoOut := by
  intro u s t hb hs h
  rw [step_of_blockTurn hb] at h
  cases blockStep_inv h with
  | quiet _ => exact ⟨rfl, rfl, fun _ => ⟨rfl, rfl, rfl, rfl⟩⟩
  | headerFailed _ _ => exact ⟨rfl, rfl, fun _ => ⟨rfl, rfl, rfl, rfl⟩⟩
  | validated _ _ _ => exact ⟨rfl, rfl, fun _ => ⟨rfl, rfl, rfl, rfl⟩⟩
  | decodeStarted _ _ _ => exact ⟨rfl, rfl, fun hne => absurd rfl hne⟩
  | pixel v hpix _ _ => exact absurd hpix hs

/-! ### A move of the host or of the reset input -/

/-- What a move other than `wait` leaves: the word received alone (reads, and writes that are ignored), a register or a byte written while not
BUSY, or the reset event. -/
inductive HostEffect (s : State) : HostMove → State → Prop where
  | received (m : HostMove) (d : Word) : HostEffect s m { s with hostData := d }
  | command (acc : RegAccess) (v : Word) (m : Mode) (notBusy : s.busy = false) (atCmd : acc.offset = 0x00) (accepted : v = 1 ∨ v = 2) :
      HostEffect s (.regWrite acc v) (s.commandStep m)
  | lenWritten (acc : RegAccess) (v : Word) (notBusy : s.busy = false) : HostEffect s (.regWrite acc v) { s with len := v }
  | inWritten (a : Word) (v : Byte) (notBusy : s.busy = false) :
      HostEffect s (.inWrite a v) { s with inMem := s.inMem.write a.toNat v }
  | outWritten (a : Word) (v : Byte) (notBusy : s.busy = false) (inRange : a.toNat < s.outBytes) :
      HostEffect s (.outWrite a v) { s with outMem := s.outMem.write a.toNat v }
  | reset : HostEffect s .reset s.resetEvent

theorem HostEffect.unchanged (s : State) (m : HostMove) : HostEffect s m s := .received m s.hostData

theorem writeCmd_effect (s : State) {acc : RegAccess} (ha : acc.offset = 0x00) (v : Word) :
    HostEffect s (.regWrite acc v) (s.writeCmd v) := by
  cases hb : s.busy with
  | true => rw [State.writeCmd, if_pos hb]; exact .unchanged s _
  | false =>
    by_cases hv : v = 1 ∨ v = 2
    · rw [writeCmd_accepted hb hv]
      exact .command acc v _ hb ha hv
    · obtain ⟨h1, h2⟩ := not_or.1 hv
      simp only [State.writeCmd, hb, h1, h2, if_false, Bool.false_eq_true]
      exact .unchanged s _

theorem writeReg_effect (s : State) (acc : RegAccess) (v : Word) : HostEffect s (.regWrite acc v) (s.writeReg acc.offset v) := by
  rw [State.writeReg]
  split
  · next ha => exact writeCmd_effect s ha v
  · split
    · cases hb : s.busy with
      | true => rw [State.writeLen, if_pos hb]; exact .unchanged s _
      | false => rw [State.writeLen, if_neg (by simp [hb])]; exact .lenWritten acc v hb
    · exact .unchanged s _

theorem hostMove_inv {m : HostMove} {s t : State} (hm : m ≠ .wait) (h : hostMove m s = .next t) : HostEffect s m t := by
  cases m with
  | wait => exact absurd rfl hm
  | regWrite acc v =>
    rw [hostMove, hostRegWrite] at h
    split at h
    · obtain rfl := Host.Outcome.next.inj h
      exact writeReg_effect s acc v
    · cases h
  | regRead acc =>
    rw [hostMove, hostRegRead] at h
    split at h
    · obtain rfl := Host.Outcome.next.inj h
      exact .received _ _
    · cases h
  | inWrite a v =>
    rw [hostMove, hostInWrite] at h
    split at h
    · cases h
    · next hb =>
      obtain rfl := Host.Outcome.next.inj h
      exact .inWritten a v (Bool.eq_false_iff.2 hb)
  | outWrite a v =>
    rw [hostMove, hostOutWrite, writeOut] at h
    split_ifs at h with hb ha
    obtain rfl := Host.Outcome.next.inj h
    exact .outWritten a v (Bool.eq_false_iff.2 hb) ha
  | outRead a =>
    rw [hostMove, hostOutRead] at h
    split at h
    · obtain rfl := Host.Outcome.next.inj h
      exact .received _ _
    · cases h
  | irqSample =>
    obtain rfl := Host.Outcome.next.inj h
    exact .received _ _
  | reset =>
    obtain rfl := Host.Outcome.next.inj h
    exact .reset

/-- Settles O57: a command, LEN and the two byte spaces are all the host can write, and it writes them only while not BUSY. -/
theorem hostMovesLeaveTheDatapathAlone : Obligations.HostMovesLeaveTheDatapathAlone := by
  intro m u s t hwait hreset hh h
  rw [step_of_hostTurn hh] at h
  have hbusy (hb : s.busy = false) (hb' : s.busy = true) : t = { s with hostData := t.hostData } := by simp [hb] at hb'
  cases hostMove_inv hwait h with
  | received _ d => exact ⟨rfl, rfl, rfl, rfl, rfl, rfl, rfl, rfl, rfl, rfl, rfl, fun _ => rfl⟩
  | command acc v m hb _ _ => exact ⟨rfl, rfl, rfl, rfl, rfl, rfl, rfl, rfl, rfl, rfl, rfl, hbusy hb⟩
  | lenWritten acc v hb => exact ⟨rfl, rfl, rfl, rfl, rfl, rfl, rfl, rfl, rfl, rfl, rfl, hbusy hb⟩
  | inWritten a v hb => exact ⟨rfl, rfl, rfl, rfl, rfl, rfl, rfl, rfl, rfl, rfl, rfl, hbusy hb⟩
  | outWritten a v hb _ => exact ⟨rfl, rfl, rfl, rfl, rfl, rfl, rfl, rfl, rfl, rfl, rfl, hbusy hb⟩
  | reset => exact absurd rfl hreset

/-! ### Any step -/

/-- Every step that answers is a turn of the block or a move of the host, made in the state whose schedule has lost that turn. -/
theorem step_inv {u t : State} (h : step u = .next t) :
    ∃ ms s, s = { u with hostMoves := ms } ∧ ((BlockTurn u s ∧ BlockEffect s t) ∨ ∃ m, HostTurn m u s ∧ HostEffect s m t) := by
  rcases step_cases u with ⟨s, hb, hs⟩ | ⟨m, s, hm, hh, hs⟩ <;> rw [hs] at h
  · obtain ⟨ms, hms⟩ := blockTurn_frame hb
    exact ⟨ms, s, hms, Or.inl ⟨hb, blockStep_inv h⟩⟩
  · obtain ⟨ms, hms⟩ := hostTurn_frame hh
    exact ⟨ms, s, hms, Or.inr ⟨m, hh, hostMove_inv hm h⟩⟩

theorem busy_iff (s : State) : s.busy = true ↔ s.seq = .header ∨ s.seq = .pixels := by
  rw [State.busy]
  cases s.seq <;> simp [SeqState.busy]

/-- Settles O24: the block's one write of OUT begins at PIX × CHANNELS, and the host's is refused in PIXELS. -/
theorem emittedPixelsAreFinal : Obligations.EmittedPixelsAreFinal := by
  intro u t hu h a ha
  obtain ⟨ms, s, rfl, ⟨-, heffect⟩ | ⟨m, -, heffect⟩⟩ := step_inv h
  · cases heffect with
    | quiet _ => rfl
    | headerFailed _ _ => rfl
    | validated _ _ _ => rfl
    | decodeStarted _ _ _ => rfl
    | pixel v _ _ hv =>
      rw [hv.frame]
      exact Memory.read_writeBytes_outside _ _ _ _ (Or.inl ha)
  · cases heffect with
    | received _ _ => rfl
    | command _ _ _ _ _ _ => rfl
    | lenWritten _ _ _ => rfl
    | inWritten _ _ _ => rfl
    | outWritten _ _ hb _ => exact absurd ((busy_iff u).2 (Or.inr hu)) (Bool.eq_false_iff.1 hb)
    | reset => rfl

/-- Settles O52: each case of the step that writes STATE is an event of the table; a pixel step writes it on the last pixel (O22). -/
theorem stateChangesOnlyAlongTheTable : Obligations.StateChangesOnlyAlongTheTable := by
  intro u t h hne
  obtain ⟨ms, s, rfl, ⟨hb, heffect⟩ | ⟨m, hh, heffect⟩⟩ := step_inv h
  · refine Or.inr (Or.inr ⟨_, hb, ?_⟩)
    cases heffect with
    | quiet _ => exact absurd rfl hne
    | headerFailed hs hc => exact Or.inl ⟨hs, rfl, hc⟩
    | validated hs _ hm => exact Or.inr (Or.inl ⟨hs, rfl, hm, rfl⟩)
    | decodeStarted hs _ hm => exact Or.inr (Or.inr (Or.inl ⟨hs, rfl, hm, rfl⟩))
    | pixel v hs _ _ =>
      obtain ⟨-, hdone, hpixels, -⟩ := pixelStepCompletesAtTheLastPixel u _ _ hb hs h
      have hlast : v.afterPixel.seq = .done := by_contra fun hn => hne ((hpixels hn).trans hs.symm)
      exact Or.inr (Or.inr (Or.inr ⟨hs, hlast, hdone.1 hlast⟩))
  · obtain ⟨ms', hms, -⟩ := hh
    cases heffect with
    | command acc v m hb ha hv => exact Or.inr (Or.inl ⟨rfl, hb, acc, v, ms', hms, ha, hv⟩)
    | reset => exact Or.inl ⟨rfl, ms', hms⟩
    | _ => exact absurd rfl hne

end Sys2Proof.Machine
end

section
/-! SUPPORT. The machine invariant as its two parts, the byte spaces and what the registers owe to STATE, and each case of the step keeping it;
the cache invariant likewise; then O48 to O50. -/

namespace Sys2Proof.Machine

/-! ### The invariant in two parts -/

/-- Both byte spaces are canonical and lie in their address ranges (R50, R52). -/
def State.MemoriesOk (s : State) : Prop :=
  s.inMem.wf = true ∧ s.outMem.wf = true ∧ (∀ c ∈ s.inMem, c.1 < 2 ^ 32) ∧ ∀ c ∈ s.outMem, c.1 < s.outBytes

/-- What the registers owe to a value of STATE (R22 to R29, R37, R110, R128, R182). -/
def State.RegsFor (s : State) : SeqState → Prop
  | .idle => s.valid = false ∧ s.errcode = .none
  | .header => s.valid = false ∧ s.errcode = .none ∧ s.pix = 0
  | .pixels => s.Decoding
  | .done => s.Finished
  | .fail => s.valid = false ∧ s.errcode ≠ .none ∧ s.pix = 0

theorem State.Inv.regsFor {s : State} (h : s.Inv) : s.RegsFor s.seq := by
  cases hs : s.seq with
  | idle => exact h.idle hs
  | header => exact h.header hs
  | pixels => exact h.pixels hs
  | done => exact h.done hs
  | fail => exact h.fail hs

theorem State.Inv.memoriesOk {s : State} (h : s.Inv) : s.MemoriesOk := ⟨h.inWf, h.outWf, h.inRange, h.outRange⟩

theorem State.inv_of {s : State} (hm : s.MemoriesOk) (hr : s.RegsFor s.seq) : s.Inv := by
  obtain ⟨inWf, outWf, inRange, outRange⟩ := hm
  have hregs {q : SeqState} (hs : s.seq = q) : s.RegsFor q := hs ▸ hr
  exact { inWf, outWf, inRange, outRange, idle := hregs, header := hregs, pixels := hregs, done := hregs, fail := hregs }

/-- Settles O48: both byte spaces are empty, and STATE is IDLE with VALID and ERRCODE 0. -/
theorem resetStateMeetsTheInvariants : Obligations.ResetStateMeetsTheInvariants :=
  ⟨State.inv_of ⟨rfl, rfl, nofun, nofun⟩ ⟨rfl, rfl⟩, nofun⟩

/-! ### Moves of the host -/

theorem State.Decoding.withHost {s : State} (h : s.Decoding) (ms : List HostMove) (d : Word) :
    State.Decoding { s with hostMoves := ms, hostData := d } := by
  obtain ⟨hg, hp, hpix, hlen, hlow, hhigh, hrun⟩ := h
  exact ⟨hg.of_eq rfl rfl rfl rfl, hp, hpix, hlen, hlow, hhigh, hrun⟩

/-- A finished command says nothing of LEN, the byte spaces or the host's fields. -/
theorem State.Finished.withHostWrite {s : State} (h : s.Finished) (l : Word) (m n : Memory) (ms : List HostMove) (d : Word) :
    State.Finished { s with len := l, inMem := m, outMem := n, hostMoves := ms, hostData := d } := by
  obtain ⟨hg, hp, hd, hv⟩ := h
  exact ⟨hg.of_eq rfl rfl rfl rfl, hp, hd, hv⟩

theorem State.RegsFor.withHost {s : State} {q : SeqState} (h : s.RegsFor q) (ms : List HostMove) (d : Word) :
    State.RegsFor { s with hostMoves := ms, hostData := d } q := by
  cases q with
  | pixels => exact State.Decoding.withHost h ms d
  | done => exact State.Finished.withHostWrite h s.len s.inMem s.outMem ms d
  | _ => exact h

theorem State.Inv.withHost {s : State} (h : s.Inv) (ms : List HostMove) (d : Word) :
    State.Inv { s with hostMoves := ms, hostData := d } :=
  State.inv_of h.memoriesOk (h.regsFor.withHost ms d)

theorem State.RegsFor.withHostWrite {s : State} {q : SeqState} (h : s.RegsFor q) (hq : q.busy = false) (l : Word) (m n : Memory) :
    State.RegsFor { s with len := l, inMem := m, outMem := n } q := by
  cases q with
  | header => cases hq
  | pixels => cases hq
  | done => exact State.Finished.withHostWrite h l m n s.hostMoves s.hostData
  | _ => exact h

theorem State.Inv.withHostWrite {s : State} (h : s.Inv) (hb : s.busy = false) (l : Word) {m n : Memory}
    (hm : State.MemoriesOk { s with inMem := m, outMem := n }) : State.Inv { s with len := l, inMem := m, outMem := n } :=
  State.inv_of hm (h.regsFor.withHostWrite hb l m n)

theorem Memory.forall_mem_write {m : Memory} {b : Nat} (h : ∀ c ∈ m, c.1 < b) {a : Nat} (ha : a < b) (v : Byte) :
    ∀ c ∈ m.write a v, c.1 < b := fun c hc => (Memory.mem_write hc).elim (fun heq => heq ▸ ha) (h c)

theorem HostEffect.inv {s t : State} {m : HostMove} (heffect : HostEffect s m t) (h : s.Inv) : t.Inv := by
  cases heffect with
  | received _ d => exact h.withHost s.hostMoves d
  | command _ _ _ _ _ _ => exact State.inv_of h.memoriesOk ⟨rfl, rfl, rfl⟩
  | lenWritten _ v hb => exact h.withHostWrite hb v h.memoriesOk
  | inWritten a v hb =>
    exact h.withHostWrite hb s.len ⟨Memory.wf_write h.inWf _ _, h.outWf, Memory.forall_mem_write h.inRange a.isLt v, h.outRange⟩
  | outWritten a v hb ha =>
    exact h.withHostWrite hb s.len ⟨h.inWf, Memory.wf_write h.outWf _ _, h.inRange, Memory.forall_mem_write h.outRange ha v⟩
  | reset => exact State.inv_of h.memoriesOk ⟨rfl, rfl⟩

/-! ### A pixel step -/

/-- The Exec procedure leaves RUN, or loads it with a count of at most 61 (R86, R160). -/
theorem run_afterExec_le {i : Instr} (hw : i.wellFormed = true) {s : State} (h : s.run.toNat ≤ 61) : (afterExec i s).run.toNat ≤ 61 := by
  cases i with
  | run n =>
    have hn : n ≤ 61 := of_decide_eq_true hw
    exact (Nat.mod_le n (2 ^ 6)).trans hn
  | _ => exact h

theorem State.Decoding.withDatapath {s v : State} (h : s.Decoding)
    (hv : v = { s with prev := v.prev, run := v.run, cur := v.cur, cache := v.cache }) (hlow : 14 ≤ v.cur.toNat)
    (hhigh : v.cur.toNat = 14 ∨ v.cur.toNat + 4 ≤ s.len.toNat) (hrun : v.run.toNat ≤ 61) : v.Decoding := by
  rw [hv]
  exact ⟨h.good.of_eq rfl rfl rfl rfl, h.passed, h.pixBound, h.lenBound, hlow, hhigh, hrun⟩

theorem PixelBranch.decoding {s v : State} (hv : PixelBranch s v) (h : s.Decoding) : v.Decoding := by
  have hframe := hv.frame
  cases hv with
  | runContinue hne =>
    have hpred : (s.run - 1).toNat ≤ 61 := by
      have hrun := h.runBound
      rw [BitVec.toNat_sub_of_le (by bv_omega)]
      omega
    exact h.withDatapath hframe h.curLow h.curHigh hpred
  | opcode i _ he hw _ =>
    have hcur : (afterExec i s).cur.toNat = s.cur.toNat + opLength i.opcode := cur_afterExec_toNat he i
    have hl := opLength_le i.opcode
    have hlow : 14 ≤ (afterExec i s).cur.toNat := h.curLow.trans (by omega)
    have hhigh : (afterExec i s).cur.toNat + 4 ≤ s.len.toNat := by omega
    exact h.withDatapath hframe hlow (Or.inr hhigh) (run_afterExec_le hw h.runBound)
  | tailFill _ _ => exact h

theorem State.Decoding.afterPixel {s : State} (h : s.Decoding) (hs : s.seq = .pixels) : s.afterPixel.RegsFor s.afterPixel.seq := by
  have hpix := h.pixBound
  have hnpix := h.good.npix_le
  have hsucc : (s.pix + 1).toNat = s.pix.toNat + 1 := by
    rw [BitVec.toNat_add]
    exact Nat.mod_eq_of_lt (show s.pix.toNat + 1 < 2 ^ 32 by omega)
  rw [afterPixel_seq, hs]
  split
  · next hlast =>
    obtain ⟨hvalid, herr, hmode⟩ := h.passed
    exact ⟨h.good.of_eq rfl rfl rfl rfl, ⟨hvalid, herr⟩, fun _ => hlast, fun hv => (by cases hmode.symm.trans hv)⟩
  · next hmore =>
    have hbound : s.afterPixel.pix.toNat < s.npix := by rw [afterPixel_pix]; omega
    exact ⟨h.good.of_eq rfl rfl rfl rfl, h.passed, hbound, h.lenBound, h.curLow, h.curHigh, h.runBound⟩

theorem State.MemoriesOk.afterPixel {s : State} (h : s.MemoriesOk) (hroom : s.RoomForPixel) : s.afterPixel.MemoriesOk := by
  obtain ⟨hin, hout, hinr, houtr⟩ := h
  refine ⟨hin, Memory.wf_writeBytes hout .., hinr, fun c hc => ?_⟩
  rcases Memory.mem_writeBytes hc with ⟨-, hc⟩ | hc
  · rw [length_pixelBytes] at hc
    exact hc.trans_le hroom
  · exact houtr c hc

/-! ### A turn of the block -/

theorem BlockEffect.inv {s t : State} (heffect : BlockEffect s t) (h : s.Inv) : t.Inv := by
  cases heffect with
  | quiet _ => exact h
  | headerFailed hs hc =>
    obtain ⟨hv, -, hp⟩ := h.header hs
    exact State.inv_of h.memoriesOk ⟨hv, hc, hp⟩
  | validated hs hc hm =>
    obtain ⟨-, he, hp⟩ := h.header hs
    have hg := headerGood_loadHeader (headerCode_none hc).2
    exact State.inv_of h.memoriesOk ⟨hg.of_eq rfl rfl rfl rfl, ⟨rfl, he⟩, fun hd => (by cases hm.symm.trans hd), fun _ => hp⟩
  | decodeStarted hs hc hm =>
    obtain ⟨-, he, hp⟩ := h.header hs
    obtain ⟨hl, hf⟩ := headerCode_none hc
    have hg := headerGood_loadHeader hf
    have hpix : s.pix.toNat < (s.loadHeader s.headerFields).npix := by rw [hp]; exact hg.npix_pos
    exact State.inv_of h.memoriesOk
      ⟨hg.of_eq rfl rfl rfl rfl, ⟨rfl, he, hm⟩, hpix, hl, Nat.le_refl 14, Or.inl rfl, Nat.zero_le 61⟩
  | pixel v hs hroom hv =>
    have hvs : v.seq = .pixels := by rw [hv.frame]; exact hs
    have hvm : v.MemoriesOk := by rw [hv.frame]; exact h.memoriesOk
    have hvr : v.RoomForPixel := by rw [hv.frame]; exact hroom
    exact State.inv_of (hvm.afterPixel hvr) ((hv.decoding (h.pixels hs)).afterPixel hvs)

/-- Settles O49: the turn's own state differs from the first in the schedule alone, and every case of the step keeps the invariant. -/
theorem everyStepKeepsTheInvariant : Obligations.EveryStepKeepsTheInvariant := by
  intro u t hinv h
  obtain ⟨ms, s, rfl, ⟨-, heffect⟩ | ⟨m, -, heffect⟩⟩ := step_inv h
  · exact heffect.inv (hinv.withHost ms u.hostData)
  · exact heffect.inv (hinv.withHost ms u.hostData)

/-! ### The cache -/

theorem PixelBranch.slot_eq_or_hash_eq {s v : State} (hv : PixelBranch s v) (j : Fin Config.cacheSlots) :
    v.slot j = s.slot j ∨ hash (v.slot j) = j := by
  cases hv with
  | runContinue _ => exact Or.inl rfl
  | tailFill _ _ => exact Or.inl rfl
  | opcode i _ _ _ _ =>
    by_cases hj : j = hash (afterExec i s).prev
    · subst hj
      exact Or.inr (congrArg hash (slot_cacheUpdate_hash _))
    · exact Or.inl ((slot_cacheUpdate_other _ hj).trans (slot_afterExec i s j))

theorem BlockEffect.cacheInv {s t : State} (heffect : BlockEffect s t) (h : s.CacheInv) : t.CacheInv := by
  cases heffect with
  | quiet _ => exact h
  | headerFailed _ _ => exact nofun
  | validated _ _ _ => exact nofun
  | decodeStarted _ _ _ => exact fun _ j => Or.inl (slot_decodeStart (s.loadHeader s.headerFields) j)
  | pixel v hs _ hv =>
    intro _ j
    rcases hv.slot_eq_or_hash_eq j with hj | hj
    · rw [afterPixel_slot, hj]
      exact h hs j
    · exact Or.inr hj

theorem HostEffect.cacheInv {s t : State} {m : HostMove} (heffect : HostEffect s m t) (h : s.CacheInv) : t.CacheInv := by
  cases heffect with
  | command _ _ _ _ _ _ => exact nofun
  | reset => exact nofun
  | _ => exact h

/-- Settles O50: decode start fills the cache with CACHE_INIT, and the one slot an opcode writes takes a colour that hashes to it. -/
theorem everyStepKeepsTheCacheInvariant : Obligations.EveryStepKeepsTheCacheInvariant := by
  intro u t hinv h
  obtain ⟨ms, s, rfl, ⟨-, heffect⟩ | ⟨m, -, heffect⟩⟩ := step_inv h
  · exact heffect.cacheInv hinv
  · exact heffect.cacheInv hinv

end Sys2Proof.Machine
end

section
/-! SUPPORT. The pixel stage counted step by step, with the registers no pixel step writes carried along; then O29. -/

namespace Sys2Proof.Machine

/-- The state with every register that a pixel step can write blanked: what two states agree on when only pixel steps lie between them. -/
def State.fixedPart (s : State) : State :=
  { s with prev := prevInit, run := 0, cur := 0, cache := Vector.replicate Config.cacheSlots cacheInit, pix := 0, seq := .pixels, outMem := [] }

/-- The step of a decode under way counts a pixel; the decode then goes on or, after the last pixel, is in DONE (R120, R128). -/
theorem State.UnderWay.step_next {s : State} (h : s.UnderWay) :
    ∃ t, step s = .next t ∧ t.pix.toNat = s.pix.toNat + 1 ∧ t.fixedPart = s.fixedPart ∧
      (s.pix.toNat + 1 < s.npix → t.UnderWay) ∧ (s.pix.toNat + 1 = s.npix → t.seq = .done) := by
  obtain ⟨t, ht⟩ := pixelStep_answers h.roomForPixel
  obtain ⟨-, v, rfl, hv⟩ := pixelStep_frame ht
  have hu : v.UnderWay := h.of_frame hv
  have hpix : v.pix = s.pix := (congrArg State.pix hv :)
  have hnpix : v.npix = s.npix := (congrArg State.npix hv :)
  rw [← hpix, ← hnpix, step_eq_pixelStep (blockTurn_of_noMoves h.noMoves) h.inPixels]
  exact ⟨_, ht, hu.afterPixel_pix_toNat, (congrArg State.fixedPart hv :), hu.afterPixel, hu.afterPixel_done⟩

theorem State.UnderWay.runSteps_underWay {k : Nat} {s : State} (h : s.UnderWay) (hk : s.pix.toNat + k < s.npix) :
    ∃ t, runSteps k s = .next t ∧ t.UnderWay ∧ t.pix.toNat = s.pix.toNat + k ∧ t.fixedPart = s.fixedPart := by
  induction k with
  | zero => exact ⟨s, rfl, h, rfl, rfl⟩
  | succ k ih =>
    obtain ⟨t, hrun, ht, hpix, hfix⟩ := ih (Nat.lt_of_succ_lt hk)
    have hnpix : t.npix = s.npix := (congrArg State.npix hfix :)
    obtain ⟨t', hstep, hpix', hfix', hmore, -⟩ := ht.step_next
    rw [hpix] at hpix'
    refine ⟨t', ?_, hmore (by rwa [hpix, hnpix]), hpix', hfix'.trans hfix⟩
    rw [runSteps_succ, hrun, andThen_next, hstep]

/-- Settles O29: the decode stays under way for all but the last of the steps that are left, and the last one is DONE. -/
theorem pixelStageReachesDone : Obligations.PixelStageReachesDone := by
  intro s hinv hm hs hroom
  have hu : s.UnderWay := hinv.underWay hm hs hroom
  have hlt := hu.pixBound
  refine ⟨?_, fun k hk => ?_⟩
  · obtain ⟨m, hleft⟩ : ∃ m, s.npix - s.pix.toNat = m + 1 := Nat.exists_eq_add_of_le' (Nat.sub_pos_of_lt hlt)
    obtain ⟨v, hrun, hv, hpix, hfix⟩ := hu.runSteps_underWay (k := m) (by omega)
    have hnpix : v.npix = s.npix := (congrArg State.npix hfix :)
    have hlast : v.pix.toNat + 1 = v.npix := by omega
    obtain ⟨t, hstep, hpix', hfix', -, hdone⟩ := hv.step_next
    have hf : t.fixedPart = s.fixedPart := hfix'.trans hfix
    have hd : t.seq = .done := hdone hlast
    obtain ⟨hvalid, herr, -⟩ := (hinv.pixels hs).passed
    refine ⟨t, ?_, hd, ?_, irqDone_iff.2 (Or.inl hd), (congrArg State.errcode hf :).trans herr, (congrArg State.valid hf :).trans hvalid,
      (congrArg State.width hf :), (congrArg State.height hf :), (congrArg State.channels hf :)⟩
    · rw [hleft, runSteps_succ, hrun, andThen_next, hstep]
    · rw [hpix', hlast, hnpix]
  · obtain ⟨t, hrun, ht, hpix, -⟩ := hu.runSteps_underWay (k := k) (by omega)
    exact ⟨t, hrun, ht.inPixels, hpix⟩

end Sys2Proof.Machine
end

section
/-! SUPPORT. The header fields of a HEADER directive in IN (R53, R54); then O33. -/

namespace Sys2Proof.Machine

theorem beValue_bigEndian (w : Word) : beValue (bigEndian w) = w.toNat := by
  have hw := w.isLt
  simp only [beValue, bigEndian, List.foldl, BitVec.extractLsb'_toNat, Nat.shiftRight_eq_div_pow]
  omega

theorem Memory.bytes_add (m : Memory) (a j k : Nat) : m.bytes a (j + k) = m.bytes a j ++ m.bytes (a + j) k := by
  induction j generalizing a with
  | zero => rw [Nat.zero_add]; rfl
  | succ j ih => rw [Nat.succ_add, Memory.bytes, Memory.bytes, ih, List.cons_append, Nat.add_assoc, Nat.add_comm 1 j]

/-- The two parts of a byte range whose bytes are known as two parts of the same lengths. -/
theorem Memory.bytes_of_append {m : Memory} {a k : Nat} {xs ys : List Byte} (h : m.bytes a (xs.length + k) = xs ++ ys) :
    m.bytes a xs.length = xs ∧ m.bytes (a + xs.length) k = ys := by
  rw [Memory.bytes_add] at h
  exact List.append_inj h (Memory.length_bytes ..)

theorem headerFields_of_directive {s : State} {w h : Word} {ch cs : Byte} (hd : s.inMem.bytes 0 14 = headerDirective w h ch cs) :
    s.headerFields = { magic := magicWord, w := w.toNat, h := h.toNat, ch := ch.toNat, cs := cs.toNat } := by
  rw [headerDirective, List.append_assoc, List.append_assoc] at hd
  obtain ⟨hmagic, hd⟩ := Memory.bytes_of_append (xs := [0x71, 0x6F, 0x69, 0x66]) (k := 10) hd
  obtain ⟨hw, hd⟩ := Memory.bytes_of_append (xs := bigEndian w) (k := 6) hd
  obtain ⟨hh, hd⟩ := Memory.bytes_of_append (xs := bigEndian h) (k := 2) hd
  obtain ⟨hch, hcs⟩ := Memory.bytes_of_append (xs := [ch]) (ys := [cs]) (k := 1) hd
  have hmagic' : beValue (s.inMem.bytes 0 4) = magicWord := congrArg beValue hmagic
  have hw' : beValue (s.inMem.bytes 4 4) = w.toNat := (congrArg beValue hw).trans (beValue_bigEndian w)
  have hh' : beValue (s.inMem.bytes 8 4) = h.toNat := (congrArg beValue hh).trans (beValue_bigEndian h)
  have hch' : beValue (s.inMem.bytes 12 1) = ch.toNat := (congrArg beValue hch).trans (by simp [beValue])
  have hcs' : beValue (s.inMem.bytes 13 1) = cs.toNat := (congrArg beValue hcs).trans (by simp [beValue])
  rw [State.headerFields, hmagic', hw', hh', hch', hcs']

theorem headerCode_eq_none_of {s : State} (hl : 14 ≤ s.len.toNat) (hf : headerError s.headerFields = .none) : s.headerCode = .none := by
  rw [State.headerCode, if_neg (Nat.not_lt.2 hl), hf]

/-- Settles O33: the fields are the directive's operands, which pass and fit their registers, and MODE chooses what follows the load. -/
theorem passingHeaderLoadsTheRegisters : Obligations.PassingHeaderLoadsTheRegisters := by
  intro u s w h ch cs hb hs hl hd hw hh hbound hch hcs
  have hfields := headerFields_of_directive hd
  have hpass : headerError s.headerFields = .none := by
    rw [headerError_none_iff, hfields]
    exact ⟨rfl, fun h0 => hw (BitVec.eq_of_toNat_eq h0), fun h0 => hh (BitVec.eq_of_toNat_eq h0), hbound,
      hch.imp (congrArg BitVec.toNat) (congrArg BitVec.toNat), hcs.imp (congrArg BitVec.toNat) (congrArg BitVec.toNat)⟩
  obtain ⟨hW, hH, hC, hS⟩ : (s.loadHeader s.headerFields).width = w ∧ (s.loadHeader s.headerFields).height = h ∧
      (s.loadHeader s.headerFields).channels = ch ∧ (s.loadHeader s.headerFields).colorspace = cs := by
    simp [hfields]
  rw [step_eq_headerStep_of_blockTurn hb hs, headerStep_of_headerCode_none (headerCode_eq_none_of hl hpass)]
  refine ⟨_, rfl, ?_⟩
  cases hm : s.mode with
  | decode =>
    rw [headerPassed_of_decode (s := s.loadHeader s.headerFields) hm]
    exact ⟨hW, hH, hC, hS, rfl, rfl, rfl, rfl, hm, rfl, rfl, nofun,
      fun _ => ⟨rfl, rfl, rfl, rfl, slot_decodeStart (s.loadHeader s.headerFields)⟩⟩
  | validate =>
    rw [headerPassed_of_validate (s := s.loadHeader s.headerFields) hm]
    exact ⟨hW, hH, hC, hS, rfl, rfl, rfl, rfl, hm, rfl, rfl, fun _ => ⟨rfl, rfl, rfl, rfl, rfl⟩, nofun⟩

end Sys2Proof.Machine
end

section
/-! SUPPORT. The register window, word by word, and the host's bytes of IN and OUT; then O39 to O44, O46 and O47. -/

namespace Sys2Proof.Machine

/-! ### Register writes -/

theorem writeCmd_ignored {s : State} {v : Word} (h : s.busy = true ∨ (v ≠ 1 ∧ v ≠ 2)) : s.writeCmd v = s := by
  rw [State.writeCmd]
  rcases h with hb | ⟨h1, h2⟩
  · exact if_pos hb
  · rw [if_neg h1, if_neg h2, ite_self]

/-- Settles O39: a whole-word CMD write is `writeCmd`, which tests BUSY and then the two commands. -/
theorem otherCommandWritesAreIgnored : Obligations.OtherCommandWritesAreIgnored := by
  intro u s v hh hv
  have hign : s.busy = true ∨ (v ≠ 1 ∧ v ≠ 2) := (or_assoc.2 hv).imp_left (busy_iff s).2
  rw [step_of_hostTurn hh, hostMove, hostRegWrite_word (by decide), writeReg_cmd, writeCmd_ignored hign]

theorem writeReg_len (s : State) (v : Word) : s.writeReg 0x0C v = s.writeLen v := by
  rw [State.writeReg, if_neg (by decide), if_pos rfl]

theorem writeReg_other (s : State) {off : BitVec 6} (hcmd : off ≠ 0x00) (hlen : off ≠ 0x0C) (v : Word) : s.writeReg off v = s := by
  rw [State.writeReg, if_neg hcmd, if_neg hlen]

/-- Settles O40: of the offsets but CMD only LEN's has a register that a write reaches, and BUSY guards it. -/
theorem registerWritesOutsideCmd : Obligations.RegisterWritesOutsideCmd := by
  intro u s off v hh hoff
  rw [step_of_hostTurn hh, hostMove, hostRegWrite_word hoff]
  refine ⟨?_, ?_, fun hcmd hlen => by rw [writeReg_other s hcmd hlen]⟩
  · rintro rfl hb
    rw [writeReg_len, State.writeLen, if_neg (Bool.eq_false_iff.1 hb)]
  · rintro rfl hb
    rw [writeReg_len, State.writeLen, if_pos hb]

/-! ### Register reads -/

theorem hostRegRead_word {offset : BitVec 6} (h : offset.toNat % 4 = 0) (s : State) :
    hostRegRead { offset := offset, size := 4 } s = .next { s with hostData := s.readReg offset } := by
  simp [hostRegRead, RegAccess.shapeOk, h]

theorem toNat_bit (b : Bool) : (bit b).toNat = if b = true then 1 else 0 := by
  cases b <;> rfl

theorem SeqState.toNat_code (q : SeqState) :
    q.code.toNat = (match q with | .idle => 0 | .header => 1 | .pixels => 2 | .done => 3 | .fail => 4) := by
  cases q <;> rfl

theorem Mode.toNat_code (m : Mode) : m.code.toNat = if m = .validate then 1 else 0 := by
  cases m <;> rfl

/-- The fields of the STATUS word at their bit positions (R35). -/
theorem toNat_statusWord (s : State) :
    s.statusWord.toNat = s.seq.code.toNat + 8 * (bit s.valid).toNat + 16 * (bit s.busy).toNat + 32 * s.mode.code.toNat := by
  simp only [State.statusWord, toNat_append_eq_add, BitVec.ofNat_eq_ofNat, BitVec.toNat_ofNat]
  omega

theorem toNat_errWord (s : State) : s.errWord.toNat = s.errcode.code.toNat := by
  rw [State.errWord, toNat_append_eq_add]
  exact Nat.zero_add _

theorem readReg_reserved (s : State) {off : BitVec 6} (h : 0x24 ≤ off.toNat) : s.readReg off = 0 := by
  have hne (c : BitVec 6) (hc : c.toNat < 0x24) : off ≠ c := by
    rintro rfl
    omega
  rw [State.readReg, if_neg (hne _ (by decide)), if_neg (hne _ (by decide)), if_neg (hne _ (by decide)), if_neg (hne _ (by decide)),
    if_neg (hne _ (by decide)), if_neg (hne _ (by decide)), if_neg (hne _ (by decide)), if_neg (hne _ (by decide))]

/-- Settles O41: the word received is `readReg` of the offset; STATUS and ERRCODE are the sums of their fields. -/
theorem registerReadsReturnTheMap : Obligations.RegisterReadsReturnTheMap := by
  intro u s off hh hoff
  have hstep : step u = .next { s with hostData := s.readReg off } := by
    rw [step_of_hostTurn hh, hostMove, hostRegRead_word hoff]
  refine ⟨_, hstep, ?_, ?_, ?_, ?_, ?_, ?_, ?_, ?_, ?_, readReg_reserved s⟩
  · rintro rfl; rfl
  · rintro rfl
    change s.statusWord.toNat = _
    rw [toNat_statusWord, SeqState.toNat_code, toNat_bit, toNat_bit, Mode.toNat_code, if_congr (busy_iff s) rfl rfl]
    split_ifs <;> rfl
  · rintro rfl
    change s.errWord.toNat = _
    rw [toNat_errWord]
    cases s.errcode <;> rfl
  · rintro rfl; rfl
  · rintro rfl; rfl
  · rintro rfl; rfl
  · rintro rfl
    exact BitVec.toNat_setWidth_of_le (by decide : 8 ≤ 32)
  · rintro rfl
    exact BitVec.toNat_setWidth_of_le (by decide : 8 ≤ 32)
  · rintro rfl; rfl

/-! ### Accesses of another shape -/

theorem shapeOk_eq_false {acc : RegAccess} (h : acc.size ≠ 4 ∨ acc.offset.toNat % 4 ≠ 0) : acc.shapeOk = false := by
  rw [RegAccess.shapeOk, Bool.and_eq_false_iff, beq_eq_false_iff_ne, beq_eq_false_iff_ne]
  exact h

/-- Settles O42: both moves test the access's shape first. -/
theorem subWordAndMisalignedAccessesAreRefused : Obligations.SubWordAndMisalignedAccessesAreRefused := by
  intro u s acc v hacc
  have hshape : ¬ acc.shapeOk = true := Bool.eq_false_iff.1 (shapeOk_eq_false hacc)
  exact ⟨fun hh => (step_of_hostTurn hh).trans (if_neg hshape), fun hh => (step_of_hostTurn hh).trans (if_neg hshape)⟩

/-! ### The bytes of IN and OUT -/

theorem hostWrites_busy {s : State} (hb : s.busy = true) (a : Word) (v : Byte) :
    hostInWrite a v s = .refused .hostWriteWhileBusy ∧ hostOutWrite a v s = .refused .hostWriteWhileBusy := ⟨if_pos hb, if_pos hb⟩

theorem hostInWrite_idle {s : State} (hb : s.busy = false) (a : Word) (v : Byte) :
    hostInWrite a v s = .next { s with inMem := s.inMem.write a.toNat v } := if_neg (Bool.eq_false_iff.1 hb)

theorem hostOutWrite_idle {s : State} (hb : s.busy = false) (a : Word) (v : Byte) : hostOutWrite a v s = writeOut a.toNat v s :=
  if_neg (Bool.eq_false_iff.1 hb)

/-- Settles O43: after the test of BUSY both moves are one `Memory.write`, in OUT within OUT_BYTES. -/
theorem hostMemoryWrites : Obligations.HostMemoryWrites := by
  intro u s a v
  refine ⟨fun hh => ?_, fun hh => ?_⟩ <;> rw [step_of_hostTurn hh, hostMove]
  · refine ⟨fun hb => (hostWrites_busy hb a v).1, fun hb => ⟨hostInWrite_idle hb a v, ?_, ?_⟩⟩
    · exact fun hw => Memory.read_write_same hw _ _
    · exact fun b hne => Memory.read_write_other _ hne _
  · refine ⟨fun hb => (hostWrites_busy hb a v).2, fun hb ha => ⟨?_, ?_, ?_⟩, fun hb ha => ?_⟩
    · exact (hostOutWrite_idle hb a v).trans (if_pos ha)
    · exact fun hw => Memory.read_write_same hw _ _
    · exact fun b hne => Memory.read_write_other _ hne _
    · exact (hostOutWrite_idle hb a v).trans (if_neg (Nat.not_lt.2 ha))

/-- Settles O44: the byte and the level are zero-extended, which keeps their values. -/
theorem hostReadsOfOutAndIrq : Obligations.HostReadsOfOutAndIrq := by
  intro u s a
  refine ⟨fun hh ha => ?_, fun hh => ?_⟩
  · exact ⟨_, (step_of_hostTurn hh).trans (if_pos ha), BitVec.toNat_setWidth_of_le (by decide : 8 ≤ 32)⟩
  · refine ⟨_, step_of_hostTurn hh, ?_⟩
    rw [BitVec.toNat_setWidth_of_le (by decide : 1 ≤ 32), toNat_bit]
    exact if_congr irqDone_iff rfl rfl

/-! ### Reset and the quiescent states -/

/-- Settles O46: each register of `State.reset` as it is written there, and the STATUS word evaluated. -/
theorem resetStateHasTheSpecsValues : Obligations.ResetStateHasTheSpecsValues :=
  ⟨rfl, rfl, rfl, rfl, rfl, rfl, rfl, rfl, rfl, rfl, by decide, rfl⟩

/-- Settles O47: the block's turn by STATE has no step there. -/
theorem quiescentStatesWaitForTheHost : Obligations.QuiescentStatesWaitForTheHost := by
  intro u s hb hs
  rw [step_of_blockTurn hb, blockStep]
  rcases hs with hs | hs | hs <;> rw [hs]

end Sys2Proof.Machine
end
